-- ==== Sys2Proof/Word.lean ====
section
/-! DEFINITION. The block's word and byte types (spec/10_state.md R20, R25; spec/20_memory.md R51). -/

namespace Sys2Proof

/-- One byte of the byte memory BM. -/
abbrev Byte := BitVec 8

/-- A 32-bit word: a control register, an argument register, a command word, a host register, and the
32-bit two's-complement image of one polynomial coefficient (R20). -/
abbrev Word := BitVec 32

end Sys2Proof
end

