-- ==== Sys2Proof/Config.lean ====
section
/-! DEFINITION. What is fixed for the machine: the scheme's constants (spec/00_scope.md R7, R8, R9), the shell's
parameters (R10) as a record that the state carries and no step changes, the open platform parameters, and the free
values. -/

namespace Sys2Proof.Config

/-! ## Constants of the scheme (R7, R8) -/

/-- N: coefficients of one polynomial (R7). -/
abbrev polyLen : Nat := 256
/-- K: length of the tall vectors (R7). -/
abbrev vecK : Nat := 8
/-- L: length of the short vectors (R7). -/
abbrev vecL : Nat := 7
/-- ETA (R7). -/
abbrev eta : Int := 2
/-- D (R7). -/
abbrev dBits : Nat := 13
/-- Q, the modulus (R8). -/
abbrev q : Int := 8380417
/-- QINV = Q^-1 mod 2^32 (R8). -/
abbrev qinv : Int := 58728449
/-- MONT = 2^32 mod Q (R8, R109). -/
abbrev mont : Int := 4193792
/-- GAMMA1 = 2^19 (R8). -/
abbrev gamma1 : Int := 524288
/-- GAMMA2 = (Q-1)/32 (R8). -/
abbrev gamma2 : Int := 261888
/-- TAU: nonzero coefficients of a challenge (R8). -/
abbrev tau : Nat := 60
/-- BETA = TAU·ETA: what the host subtracts from a norm bound, as in the examples of R175 (R8). No command reads it. -/
abbrev beta : Nat := 120
/-- OMEGA: the maximum hint weight (R8). -/
abbrev omega : Nat := 75
/-- ROOT: the primitive 512th root of unity behind the zeta table (R8, R140). -/
abbrev root : Nat := 1753

/-! ## Parameters of the hardware shell (R10) -/

/-- The parameters that the model takes as an argument (R10), in the state's field `params`. -/
structure Params where
  /-- NSLOT: slots of the polynomial memory (R10, R20). -/
  nslot : Nat
  /-- BM_SIZE: bytes of the byte memory (R10, R24). -/
  bmSize : Nat
  /-- TR_BYTES: length of tr (R10). -/
  trBytes : Nat
deriving DecidableEq, Repr

/-- The values of this design (R10; spec/90_conflicts.md C4 takes TR_BYTES = 32). -/
def Params.design : Params := ⟨64, 16384, 32⟩

/-- The values a block may have: NSLOT from 46 to 255 and BM_SIZE a multiple of 256 up to 2^24 - 256 (R10, R34), TR_BYTES 32 or
the alternative reading 64 (R10). -/
abbrev Params.Ok (p : Params) : Prop :=
  46 ≤ p.nslot ∧ p.nslot ≤ 255 ∧ p.bmSize % 256 = 0 ∧ p.bmSize ≤ 16776960 ∧ (p.trBytes = 32 ∨ p.trBytes = 64)

/-- SEEDBYTES: length of rho, key and the challenge seed (R9). -/
abbrev seedBytes : Nat := 32
/-- The hint table of a vector of K polynomials: OMEGA + K bytes (R9, R243). -/
abbrev hintBytes : Nat := omega + vecK

/-- CORE_BASE, the platform address of the host window. OPEN (R10, R53): a free value. DESIGN CHOICE
(notes/assumptions/12.md). -/
opaque coreBase : Nat

/-- IRQ_LINE, the platform interrupt input that IRQ drives. OPEN (R310): a free value. DESIGN CHOICE
(notes/assumptions/12.md). -/
opaque irqLine : Nat

/-! ## Free values and the model's own granularity -/

/-- What a read of RESULT or RESULT1 returns while BUSY = 1: UNSPECIFIED (R33), so a free value, one for each such
read (the state's counter `freeCount` numbers them). DESIGN CHOICE (notes/assumptions/7.md). -/
opaque freeResult : Nat → Word

/-- How many further stream bytes of each XOF session one turn of the sequencer may draw before the turn ends with
the sampler still running. No result depends on it (R218, R341). A multiple of 3, the uniform sampler's candidate
size. DESIGN CHOICE (notes/assumptions/6.md). -/
abbrev samplerChunk : Nat := 1008

end Sys2Proof.Config
end

