-- ==== Sys2Proof/Syntax.lean ====
section
/-! DEFINITION. The commands: one constructor of `Instr` for each row of spec/opcode_table.json (spec/30_encoding.md
R80). Slot operands are slot numbers; VL and S are already the vector length and the seed length they select. -/

namespace Sys2Proof

/-- The vector length selector VL (R73): one slot, L slots or K slots. VL = 3 is reserved and is no term. -/
inductive VecLen where
  | one
  | vecL
  | vecK
deriving DecidableEq, Repr

/-- The vector count n that VL selects (R73). -/
def VecLen.count : VecLen → Nat
  | .one => 1
  | .vecL => Config.vecL
  | .vecK => Config.vecK

/-- The seed length selector S (R74). -/
inductive SeedLen where
  | s32
  | s64
deriving DecidableEq, Repr

/-- SEEDLEN, the bytes of the seed that S selects (R74). -/
def SeedLen.bytes : SeedLen → Nat
  | .s32 => 32
  | .s64 => 64

/-- The 50 commands of R80, in the table's order. Operands appear in the order RD, RA, RB, VL, S, without the fields
a row marks "-". Numeric operands are no part of a command: they come from the argument latch (R76). -/
inductive Instr where
  | nop
  | smont
  | sred
  | scaddq
  | sp2r
  | sdecomp
  | smkhint
  | susehint
  | padd (rd ra rb : Nat) (vl : VecLen)
  | psub (rd ra rb : Nat) (vl : VecLen)
  | pshl (rd ra : Nat) (vl : VecLen)
  | pred (rd ra : Nat) (vl : VecLen)
  | pcaddq (rd ra : Nat) (vl : VecLen)
  | ppwm (rd ra rb : Nat) (vl : VecLen)
  | ppwms (rd ra rb : Nat) (vl : VecLen)
  | ppwacc (rd ra rb : Nat) (vl : VecLen)
  | pchknorm (ra : Nat) (vl : VecLen)
  | pp2r (rd ra rb : Nat) (vl : VecLen)
  | pdecomp (rd ra rb : Nat) (vl : VecLen)
  | pmkhint (rd ra rb : Nat) (vl : VecLen)
  | pusehint (rd ra rb : Nat) (vl : VecLen)
  | pntt (rd ra : Nat) (vl : VecLen)
  | pinvntt (rd ra : Nat) (vl : VecLen)
  | matvec (rd ra : Nat) (sl : SeedLen)
  | sunif (rd : Nat) (vl : VecLen) (sl : SeedLen)
  | seta (rd : Nat) (vl : VecLen) (sl : SeedLen)
  | sgamma1 (rd : Nat) (vl : VecLen) (sl : SeedLen)
  | schal (rd : Nat) (sl : SeedLen)
  | pkt1 (ra : Nat) (vl : VecLen)
  | upkt1 (rd : Nat) (vl : VecLen)
  | pkt0 (ra : Nat) (vl : VecLen)
  | upkt0 (rd : Nat) (vl : VecLen)
  | pketa (ra : Nat) (vl : VecLen)
  | upketa (rd : Nat) (vl : VecLen)
  | pkz (ra : Nat) (vl : VecLen)
  | upkz (rd : Nat) (vl : VecLen)
  | pkw1 (ra : Nat) (vl : VecLen)
  | pkhint (ra : Nat)
  | upkhint (rd : Nat)
  | packpk (ra : Nat)
  | unpackpk (rd : Nat)
  | packsk (rd ra rb : Nat)
  | unpacksk (rd ra rb : Nat)
  | packsig (ra rb : Nat)
  | unpacksig (ra rb : Nat)
  | ldpoly (rd : Nat) (vl : VecLen)
  | stpoly (ra : Nat) (vl : VecLen)
  | pzero (rd : Nat) (vl : VecLen)
  | bzero
  | wipe
deriving DecidableEq, Repr

end Sys2Proof
end

