-- ==== Sys2Proof/Machine/State.lean ====
section
/-! DEFINITION. The state of the machine as plain data: the block (spec/10_state.md), the host agent that drives it
(spec/30_encoding.md R85) and the schedule that says which agent moves next (spec/00_scope.md R19), with the reset
state (R43, spec/70_reset_and_hazards.md R331 to R333), the faults and the refusals. -/

namespace Sys2Proof.Machine

/-! ## Memories -/

/-- Sparse contents by key, in one canonical form: keys strictly rising. A key that is not listed has never been
written since reset, or was left UNSPECIFIED: it reads as no value (R44). -/
abbrev Sparse (α : Type) := List (Nat × α)

/-- The byte memory BM (R24): `List Host.Cell`. -/
abbrev Memory := Sparse Byte

/-- One polynomial: 256 coefficients, each the image of a 32-bit signed integer (R14, R20). -/
structure Poly where
  coeffs : List Word
  size : coeffs.length = Config.polyLen
deriving DecidableEq, Repr

/-- The polynomial memory PM (R20): slot number and polynomial. Every command writes whole slots, so a slot is
written or unwritten as one (notes/assumptions/1.md). -/
abbrev PolyMem := Sparse Poly

/-- The polynomial whose coefficients are all x. -/
def Poly.const (x : Word) : Poly := ⟨List.replicate Config.polyLen x, by simp⟩

/-! ## Registers -/

/-- The error codes of STATUS.ERRCODE (R300). Codes 8 to 15 are never reported and are no term. -/
inductive ErrCode where
  | noError
  | illegalOpcode
  | reservedField
  | slotRange
  | overlap
  | bmRange
  | hintOverflow
  | aborted
deriving DecidableEq, Repr

/-- The sequencer's state, mirrored exactly by STATUS.BUSY (R38). -/
inductive Seq where
  | idle
  | run
deriving DecidableEq, Repr

/-- Four argument words: the registers ARG0 to ARG3 (R25), and the latch taken from them at issue (R27). -/
structure Args where
  a0 : Word
  a1 : Word
  a2 : Word
  a3 : Word
deriving DecidableEq, Repr

/-- The two streams of the XOF port (R200). -/
inductive XofMode where
  | shake128
  | shake256
deriving DecidableEq, Repr

/-- An open XOF session (R39, R201): the mode and the message copied when it opened (R67), the stream position (bytes consumed so far),
how many coefficients have been accepted or placed, and what is left of the challenge's sign word. -/
structure XofSession where
  mode : XofMode
  msg : List Byte
  pos : Nat
  count : Nat
  signs : BitVec 64
deriving DecidableEq, Repr

/-! ## The host agent (R19, R85) -/

/-- The width of a host window access (R54, R55). -/
inductive Width where
  | w8
  | w16
  | w32
deriving DecidableEq, Repr

/-- What a host store writes: a constant or a host register (R85). -/
inductive HostVal where
  | imm (v : Word)
  | reg (h : Fin 8)
deriving DecidableEq, Repr

/-- The operations of the abstract host (R85): loads and stores at a window offset from CORE_BASE, of any width, and
the register and branch operations. The pseudo-instructions of R85 expand to these (Machine/HostAgent.lean). A branch
target is an index of the host program. -/
inductive HostOp where
  | load (w : Width) (off : Nat) (h : Fin 8)
  | store (w : Width) (off : Nat) (v : HostVal)
  | li (h : Fin 8) (v : Word)
  | addi (h src : Fin 8) (v : Word)
  | andi (h src : Fin 8) (v : Word)
  | beqz (h : Fin 8) (target : Nat)
  | bnez (h : Fin 8) (target : Nat)
  | jump (target : Nat)
  | halt
deriving DecidableEq, Repr

/-- The host: its program, its place in it, and its registers h0 to h7 (R85). -/
structure HostState where
  prog : List HostOp
  pc : Nat
  regs : Vector Word 8
deriving DecidableEq, Repr

/-- Who moves: the host, the block's sequencer, or the platform asserting RST (R19, R330). -/
inductive Turn where
  | host
  | sequencer
  | reset
deriving DecidableEq, Repr

/-! ## The state -/

/-- Everything the spec gives the machine, its parameters, and the model's own `turns`, `host` and `freeCount`. STATUS.BUSY is `seq`
(R38) and the IRQ output is DONE and IE (R37): each is stored once (Machine/Flags.lean computes the other view). ID
is a constant and PARAM shows the parameters (R34), CTRL.ABORT reads 0 (R32). -/
structure State where
  /-- The shell's parameters (R10): an argument of every operation, which no step changes (notes/assumptions/12.md). -/
  params : Config.Params
  /-- PM (R20). -/
  pm : PolyMem
  /-- BM (R24). -/
  bm : Memory
  /-- CMD: the last latched command word (R27). -/
  cmd : Word
  /-- SEQ, and STATUS.BUSY (R29, R38). -/
  seq : Seq
  /-- STATUS.DONE (R29, R30). -/
  done : Bool
  /-- STATUS.ERR (R29, R30). -/
  err : Bool
  /-- STATUS.OVR (R28, R30). -/
  ovr : Bool
  /-- STATUS.ERRCODE (R31). -/
  errcode : ErrCode
  /-- CTRL.IE (R32). -/
  ie : Bool
  /-- RESULT (R33). -/
  result : Word
  /-- RESULT1 (R33). -/
  result1 : Word
  /-- ARG0 to ARG3 (R25). -/
  args : Args
  /-- The hidden argument latch ARG[0..3] (R27, R38); none: no command latched since reset (R331). -/
  latch : Option Args
  /-- The open XOF session of a sampler that is still running (R39); none: no session open. -/
  xof : Option XofSession
  /-- MATVEC's hidden matrix-entry buffer E (R40, R190). -/
  matEntry : Poly
  /-- MATVEC's hidden accumulator ACC (R40, R190). -/
  matAcc : Poly
  /-- The host agent (R85). -/
  host : HostState
  /-- Which agent moves at each of the next steps; when empty the sequencer moves while BUSY = 1 and the host otherwise
  (notes/assumptions/2.md). -/
  turns : List Turn
  /-- How many free values have been drawn (notes/assumptions/7.md). -/
  freeCount : Nat
deriving DecidableEq, Repr

/-- Four zero words. -/
def Args.zero : Args := ⟨0, 0, 0, 0⟩

/-- The host with no program and its registers 0 (notes/assumptions/3.md). -/
def HostState.empty : HostState := ⟨[], 0, Vector.replicate 8 0⟩

/-- The machine right after reset (R43, R331, R332): PM and BM unwritten, every control register 0, the sequencer
idle, no command latched, no XOF session. The MATVEC buffers have no reset value; 0 is the model's choice
(notes/assumptions/8.md). -/
def State.reset : State where
  params := Config.Params.design
  pm := []
  bm := []
  cmd := 0
  seq := .idle
  done := false
  err := false
  ovr := false
  errcode := .noError
  ie := false
  result := 0
  result1 := 0
  args := Args.zero
  latch := none
  xof := none
  matEntry := Poly.const 0
  matAcc := Poly.const 0
  host := HostState.empty
  turns := []
  freeCount := 0

/-! ## Stops -/

/-- Why the machine stops with a fault. The spec names each treatment as a model's fault (R306, R307). -/
inductive Fault where
  /-- A command reads a PM slot that nothing has written since reset, or that an abort or a hint reject left
  UNSPECIFIED (R44, R307a). Raised by every command with a source slot. Safe: a chip goes on with some value. -/
  | unwrittenSlot
  /-- A command or the host reads a BM byte that nothing has written since reset, or that an abort left UNSPECIFIED
  (R44, R59, R307a). Raised by every command with a BM source and by a host load. Safe: a chip goes on with some
  value. -/
  | unwrittenByte
  /-- The block answers a host access with a bus error (R54, R55, R306): a fault of the host agent. Raised by a host
  load or store. Safe: a chip's host sees an error response and goes on. -/
  | busError
deriving DecidableEq, Repr

/-- Why the machine has no step. -/
inductive Refusal where
  /-- The instruction has no meaning in this model yet. Raised by no arm of exec. Safe. -/
  | notModelled (mnemonic : String)
  /-- A host access to BM through the window while BUSY = 1 (R58, R307b): the host agent has no step. Raised by a host
  load or store. Safe: a chip performs some access. -/
  | bmAccessWhileBusy
  /-- A host access at or above offset 0x4000 + BM_SIZE (R53): outside the block, the platform decides what it does.
  Raised by a host load or store. Safe. -/
  | outsideWindow
deriving DecidableEq, Repr

/-- What a meaning, and a step, answers. -/
abbrev Result := Host.Outcome State Fault Refusal

end Sys2Proof.Machine
end

