-- ==== Sys2Proof/Machine/Flags.lean ====
section
/-! DEFINITION. The status and control words and their flags: BUSY, the words STATUS, CTRL, ID and PARAM read as, the
write-one-to-clear of STATUS, and the interrupt output (spec/10_state.md R26, R29 to R37; spec/60_exceptions.md R300,
R310). -/

namespace Sys2Proof.Machine

/-- The number of an error code (R300). -/
def errNumber : ErrCode → Nat
  | .noError => 0
  | .illegalOpcode => 1
  | .reservedField => 2
  | .slotRange => 3
  | .overlap => 4
  | .bmRange => 5
  | .hintOverflow => 6
  | .aborted => 7

/-- STATUS.BUSY: 1 exactly while SEQ = RUN (R38). -/
def State.busy (s : State) : Bool :=
  match s.seq with
  | .idle => false
  | .run => true

/-- STATUS as it reads (R26): BUSY [0], DONE [1], ERR [2], OVR [3], ERRCODE [11:8], all other bits 0. -/
def State.statusWord (s : State) : Word :=
  BitVec.ofNat 32 (s.busy.toNat + 2 * s.done.toNat + 4 * s.err.toNat + 8 * s.ovr.toNat + 256 * errNumber s.errcode)

/-- CTRL as it reads (R26, R32): IE [0], ABORT reads 0, all other bits 0. -/
def State.ctrlWord (s : State) : Word := BitVec.ofNat 32 s.ie.toNat

/-- ID: "VAZ2" (R34). -/
def idWord : Word := 0x56415A32

/-- PARAM: BM_SIZE/256 [31:16], TR_BYTES [15:8], NSLOT [7:0] (R34). -/
def paramWord (p : Config.Params) : Word :=
  BitVec.ofNat 32 (p.nslot + p.trBytes * 256 + p.bmSize / 256 * 65536)

/-- A write of v to STATUS (R30): 1 clears DONE [1], ERR [2], OVR [3]; clearing ERR clears ERRCODE. -/
def State.writeStatus (s : State) (v : Word) : State :=
  { s with
    done := s.done && !v.getLsbD 1
    err := s.err && !v.getLsbD 2
    ovr := s.ovr && !v.getLsbD 3
    errcode := if v.getLsbD 2 then .noError else s.errcode }

/-- The interrupt output IRQ = STATUS.DONE AND CTRL.IE, level-sensitive (R37, R310). -/
def State.irq (s : State) : Bool := s.done && s.ie

/-- The platform's interrupt inputs as the block drives them: IRQ on IRQ_LINE alone (R310). -/
def State.irqInput (s : State) (line : Nat) : Bool := line == Config.irqLine && s.irq

/-- The platform address of a window offset (R53). -/
def windowAddress (off : Nat) : Nat := Config.coreBase + off

end Sys2Proof.Machine
end

