-- ==== Sys2Proof/Machine/Ops.lean ====
section
/-! DEFINITION. The named operations over memories and registers: byte strings and integers (spec/00_scope.md R12,
R13), the sparse memories PM and BM (spec/20_memory.md), issue, completion, ending with an error, and reset
(spec/10_state.md R27 to R33; spec/60_exceptions.md R303, R308; spec/70_reset_and_hazards.md R330 to R334). -/

namespace Sys2Proof.Machine

/-! ## Integers and digits (R12, R51) -/

/-- `low32`: two's-complement truncation to 32 bits (R12). -/
def low32 (x : Int) : Word := BitVec.ofInt 32 x

/-- `x >> n` on an integer: floor division by 2^n, the sign-filling shift (R12). -/
def sar (x : Int) (n : Nat) : Int := x >>> n

/-- The number whose base-2^w digits, least significant first, are ds. -/
def ofDigits (w : Nat) : List Nat → Nat
  | [] => 0
  | d :: ds => d + Nat.pow 2 w * ofDigits w ds

/-- The n lowest base-2^w digits of v, least significant first. -/
def digits (w : Nat) : Nat → Nat → List Nat
  | 0, _ => []
  | n + 1, v => v % Nat.pow 2 w :: digits w n (v / Nat.pow 2 w)

/-- The number a byte string holds, least significant byte first (R51). -/
def bytesToNat (bs : List Byte) : Nat := ofDigits 8 (bs.map BitVec.toNat)

/-- The n bytes of v, least significant first (R51). -/
def natToBytes (n v : Nat) : List Byte := (digits 8 n v).map (BitVec.ofNat 8)

/-! ## Polynomials (R14) -/

/-- `map f p` (R14): f on each coefficient, in index order. -/
def Poly.map (f : Word → Word) (p : Poly) : Poly := ⟨p.coeffs.map f, by simp [p.size]⟩

/-- f on the coefficients of equal index of two polynomials (R160). -/
def Poly.zipWith (f : Word → Word → Word) (p r : Poly) : Poly :=
  ⟨List.zipWith f p.coeffs r.coeffs, by simp [p.size, r.size]⟩

/-- The polynomial with the given coefficients, if there are 256 of them. -/
def Poly.ofList (l : List Word) : Option Poly := if h : l.length = Config.polyLen then some ⟨l, h⟩ else none

/-- The polynomial whose coefficient i is f i. -/
def Poly.ofFn (f : Nat → Word) : Poly := ⟨(List.range Config.polyLen).map f, by simp⟩

/-- Coefficient i as a signed integer (R13, R20). -/
def Poly.coeff (p : Poly) (i : Nat) : Int := (p.coeffs.getD i 0).toInt

/-! ## Sparse memories (R44, R56) -/

/-- What the key a holds; none where nothing has been written. -/
def Sparse.get {α : Type} (m : Sparse α) (a : Nat) : Option α := m.lookup a

/-- The values of the keys a, a+1, ..., a+n-1 at the head of m; none as soon as one is missing. -/
def collect {α : Type} (a : Nat) : Nat → Sparse α → Option (List α)
  | 0, _ => some []
  | _ + 1, [] => none
  | n + 1, (b, v) :: m => if b = a then (collect (a + 1) n m).map (v :: ·) else none

/-- MemRead (R13): the values of the keys a to a+n-1; none where one of them is unwritten. -/
def Sparse.getRange {α : Type} (m : Sparse α) (a n : Nat) : Option (List α) :=
  collect a n (m.dropWhile fun c => decide (c.1 < a))

/-- The values vs at the keys a, a+1, .... -/
def cells {α : Type} (a : Nat) : List α → Sparse α
  | [] => []
  | v :: vs => (a, v) :: cells (a + 1) vs

/-- MemWrite (R13): the values vs at the keys a, a+1, ...; every other key as before. -/
def Sparse.setRange {α : Type} (m : Sparse α) (a : Nat) (vs : List α) : Sparse α :=
  m.filter (fun c => decide (c.1 < a)) ++ cells a vs ++ m.filter (fun c => decide (a + vs.length ≤ c.1))

/-- The keys a to a+n-1 become unwritten (R44, R312). -/
def Sparse.clearRange {α : Type} (m : Sparse α) (a n : Nat) : Sparse α :=
  m.filter fun c => decide (c.1 < a) || decide (a + n ≤ c.1)

/-- The canonical form: keys strictly rising, all below the size of the address space. -/
abbrev Sparse.wfBelow {α : Type} (m : Sparse α) (size : Nat) : Prop :=
  m.Pairwise (fun x y => x.1 < y.1) ∧ ∀ c ∈ m, c.1 < size

/-- BM is in canonical form. -/
abbrev Memory.wf (p : Config.Params) (m : Memory) : Prop := Sparse.wfBelow m p.bmSize

/-- PM is in canonical form. -/
abbrev PolyMem.wf (p : Config.Params) (m : PolyMem) : Prop := Sparse.wfBelow m p.nslot

/-! ## State updates -/

/-- P[x], P[x+1], ... <- ps (R13). -/
def State.writeSlots (s : State) (x : Nat) (ps : List Poly) : State := { s with pm := s.pm.setRange x ps }

/-- BM[a ..] <- bs (R13). -/
def State.writeBytes (s : State) (a : Nat) (bs : List Byte) : State := { s with bm := s.bm.setRange a bs }

/-- Slots x to x+n-1 become UNSPECIFIED: unwritten (R44). -/
def State.clearSlots (s : State) (x n : Nat) : State := { s with pm := s.pm.clearRange x n }

/-- BM bytes a to a+n-1 become UNSPECIFIED: unwritten (R44). -/
def State.clearBytes (s : State) (a n : Nat) : State := { s with bm := s.bm.clearRange a n }

/-- The latched arguments ARG[0..3] every command reads (R27). No command runs with an empty latch; it would read 0. -/
def State.argv (s : State) : Args := s.latch.getD Args.zero

/-- A CMD write while BUSY = 0 (R27): the word and ARG0 to ARG3 are latched, BUSY is set, and DONE, ERR and ERRCODE
are cleared. -/
def State.issue (s : State) (w : Word) : State :=
  { s with
    cmd := w
    latch := some s.args
    seq := .run
    done := false
    err := false
    errcode := .noError }

/-- Completion (R29, R33): BUSY <- 0, DONE <- 1, RESULT and RESULT1 written, together; the XOF session closes (R39). -/
def State.complete (s : State) (r r1 : Word) : State :=
  { s with
    seq := .idle
    done := true
    result := r
    result1 := r1
    xof := none }

/-- Ending a command with an error, the one shared operation for every error (R29, R300, R308): completion with
ERR <- 1, ERRCODE <- e, RESULT and RESULT1 <- 0. The block takes no trap: this is all that an error does. The host
acknowledges by a write to STATUS (R309, `State.writeStatus`). -/
def State.endWithError (s : State) (e : ErrCode) : State :=
  { s.complete 0 0 with err := true, errcode := e }

/-- RST (R330 to R334): every control register at its reset value, PM and BM UNSPECIFIED, a running command abandoned
with no completion. The parameters are the block's build; the host agent and the schedule are not the block's: they stay
(notes/assumptions/20.md). That both kinds of reset unwrite PM and BM is notes/assumptions/11.md, and that the MATVEC
buffers take 0 is notes/assumptions/8.md. -/
def State.warmReset (s : State) : State :=
  { State.reset with params := s.params, host := s.host, turns := s.turns, freeCount := s.freeCount }

/-! ## Reading sources -/

/-- Go on with slots x to x+n-1, or fault where one is unwritten (R44). -/
@[inline] def withSlots (s : State) (x n : Nat) (k : List Poly → Result) : Result :=
  match s.pm.getRange x n with
  | none => .fault .unwrittenSlot
  | some ps => k ps

/-- Go on with BM bytes a to a+n-1, or fault where one is unwritten (R44). -/
@[inline] def withBytes (s : State) (a n : Nat) (k : List Byte → Result) : Result :=
  match s.bm.getRange a n with
  | none => .fault .unwrittenByte
  | some bs => k bs

end Sys2Proof.Machine
end

