-- ==== Sys2Proof/Machine/Operands.lean ====
section
/-! DEFINITION. The operand forms: which slots and bytes each command reads and writes (the table of
spec/30_encoding.md R80, spec/46_bit_packing.md R231, spec/47_key_sig_packing.md R261), and the checks every command
passes before any effect (spec/60_exceptions.md R301 to R304). -/

namespace Sys2Proof.Machine

/-- A run of consecutive slots or bytes. -/
structure Range where
  start : Nat
  len : Nat
deriving DecidableEq, Repr

/-- The slot ranges and BM ranges a command names, by what it does with them. -/
structure Operands where
  slotDst : List Range := []
  slotSrc : List Range := []
  bmDst : List Range := []
  bmSrc : List Range := []
deriving DecidableEq, Repr

/-- Two ranges [x, x+n) and [y, y+m) intersect iff x < y + m and y < x + n (R304). -/
def intersects (x y : Range) : Bool := decide (x.start < y.start + y.len) && decide (y.start < x.start + x.len)

/-- A range ends within a space of the given size, computed exactly (R301, R302). -/
def endsWithin (size : Nat) (r : Range) : Bool := decide (r.start + r.len ≤ size)

/-- No two of the ranges intersect (R304b). -/
def pairwiseDisjoint : List Range → Bool
  | [] => true
  | r :: rs => rs.all (fun x => !intersects r x) && pairwiseDisjoint rs

/-- The OVERLAP condition (R304): (a) a destination slot range meets a source slot range without being identical to
it, (b) two destination slot ranges intersect, or (c) a written BM range meets another BM range of the command. -/
def overlapping (o : Operands) : Bool :=
  o.slotDst.any (fun d => o.slotSrc.any fun x => intersects d x && d != x)
    || !pairwiseDisjoint o.slotDst
    || o.bmDst.any (fun d => o.bmSrc.any fun x => intersects d x)
    || !pairwiseDisjoint o.bmDst

/-- The checks of R303 after decoding, in its order: SLOT_RANGE, BM_RANGE, OVERLAP; none where all pass. -/
def validate (p : Config.Params) (o : Operands) : Option ErrCode :=
  if !(o.slotDst ++ o.slotSrc).all (endsWithin p.nslot) then some .slotRange
  else if !(o.bmDst ++ o.bmSrc).all (endsWithin p.bmSize) then some .bmRange
  else if overlapping o then some .overlap
  else none

/-! ## Sizes of the packed formats (R231, R260, R261) -/

/-- Bytes of one polynomial packed at w bits per coefficient (R230). -/
def packedBytes (w : Nat) : Nat := 32 * w
/-- PKBYTES (R260). -/
def pkBytes : Nat := Config.seedBytes + Config.vecK * packedBytes 10
/-- Offset of s1 in a secret key (R261). -/
def skS1 (p : Config.Params) : Nat := 2 * Config.seedBytes + p.trBytes
/-- Offset of s2 in a secret key (R261). -/
def skS2 (p : Config.Params) : Nat := skS1 p + Config.vecL * packedBytes 3
/-- Offset of t0 in a secret key (R261). -/
def skT0 (p : Config.Params) : Nat := skS2 p + Config.vecK * packedBytes 3
/-- SKBYTES (R260). -/
def skBytes (p : Config.Params) : Nat := skT0 p + Config.vecK * packedBytes 13
/-- Offset of the hint table in a signature (R261). -/
def sigHint : Nat := Config.seedBytes + Config.vecL * packedBytes 20
/-- SIGBYTES (R260). -/
def sigBytes : Nat := sigHint + Config.hintBytes

/-! ## The operand table (R80) -/

/-- One destination and no other operand. -/
def dst (rd n : Nat) : Operands := { slotDst := [⟨rd, n⟩] }
/-- A destination and a source of n slots each. -/
def dstSrc (rd ra n : Nat) : Operands := { slotDst := [⟨rd, n⟩], slotSrc := [⟨ra, n⟩] }
/-- A destination and two sources of n slots each. -/
def dstSrcSrc (rd ra rb n : Nat) : Operands := { slotDst := [⟨rd, n⟩], slotSrc := [⟨ra, n⟩, ⟨rb, n⟩] }
/-- Two destinations and a source of n slots each. -/
def dstDstSrc (rd rb ra n : Nat) : Operands := { slotDst := [⟨rd, n⟩, ⟨rb, n⟩], slotSrc := [⟨ra, n⟩] }
/-- A pack command: n source slots, len bytes written (R233 to R241). -/
def packTo (ra n : Nat) (a : Word) (len : Nat) : Operands := { slotSrc := [⟨ra, n⟩], bmDst := [⟨a.toNat, len⟩] }
/-- An unpack command or a sampler: n destination slots, len bytes read. -/
def unpackFrom (rd n : Nat) (a : Word) (len : Nat) : Operands := { slotDst := [⟨rd, n⟩], bmSrc := [⟨a.toNat, len⟩] }

/-- The operands of each command, from its fields and its latched arguments, with the shell's parameters (R10, R76,
R80). -/
def operandsOf (i : Instr) (p : Config.Params) (v : Args) : Operands :=
  match i with
  | .nop | .smont | .sred | .scaddq | .sp2r | .sdecomp | .smkhint | .susehint => {}
  | .padd rd ra rb vl | .psub rd ra rb vl => dstSrcSrc rd ra rb vl.count
  | .pshl rd ra vl | .pred rd ra vl | .pcaddq rd ra vl => dstSrc rd ra vl.count
  | .ppwm rd ra rb vl => dstSrcSrc rd ra rb vl.count
  | .ppwms rd ra rb vl => { slotDst := [⟨rd, vl.count⟩], slotSrc := [⟨ra, 1⟩, ⟨rb, vl.count⟩] }
  | .ppwacc rd ra rb vl => { slotDst := [⟨rd, 1⟩], slotSrc := [⟨ra, vl.count⟩, ⟨rb, vl.count⟩] }
  | .pchknorm ra vl => { slotSrc := [⟨ra, vl.count⟩] }
  | .pp2r rd ra rb vl | .pdecomp rd ra rb vl => dstDstSrc rd rb ra vl.count
  | .pmkhint rd ra rb vl | .pusehint rd ra rb vl => dstSrcSrc rd ra rb vl.count
  | .pntt rd ra vl | .pinvntt rd ra vl => dstSrc rd ra vl.count
  | .matvec rd ra sl =>
    { slotDst := [⟨rd, Config.vecK⟩], slotSrc := [⟨ra, Config.vecL⟩], bmSrc := [⟨v.a0.toNat, sl.bytes⟩] }
  | .sunif rd vl sl | .seta rd vl sl | .sgamma1 rd vl sl => unpackFrom rd vl.count v.a0 sl.bytes
  | .schal rd sl => unpackFrom rd 1 v.a0 sl.bytes
  | .pkt1 ra vl => packTo ra vl.count v.a0 (vl.count * packedBytes 10)
  | .upkt1 rd vl => unpackFrom rd vl.count v.a0 (vl.count * packedBytes 10)
  | .pkt0 ra vl => packTo ra vl.count v.a0 (vl.count * packedBytes 13)
  | .upkt0 rd vl => unpackFrom rd vl.count v.a0 (vl.count * packedBytes 13)
  | .pketa ra vl => packTo ra vl.count v.a0 (vl.count * packedBytes 3)
  | .upketa rd vl => unpackFrom rd vl.count v.a0 (vl.count * packedBytes 3)
  | .pkz ra vl => packTo ra vl.count v.a0 (vl.count * packedBytes 20)
  | .upkz rd vl => unpackFrom rd vl.count v.a0 (vl.count * packedBytes 20)
  | .pkw1 ra vl => packTo ra vl.count v.a0 (vl.count * packedBytes 4)
  | .pkhint ra => packTo ra Config.vecK v.a0 Config.hintBytes
  | .upkhint rd => unpackFrom rd Config.vecK v.a0 Config.hintBytes
  | .packpk ra =>
    { slotSrc := [⟨ra, Config.vecK⟩], bmDst := [⟨v.a0.toNat, pkBytes⟩], bmSrc := [⟨v.a1.toNat, Config.seedBytes⟩] }
  | .unpackpk rd =>
    { slotDst := [⟨rd, Config.vecK⟩], bmDst := [⟨v.a1.toNat, Config.seedBytes⟩], bmSrc := [⟨v.a0.toNat, pkBytes⟩] }
  | .packsk rd ra rb =>
    { slotSrc := [⟨rd, Config.vecK⟩, ⟨ra, Config.vecL⟩, ⟨rb, Config.vecK⟩]
      bmDst := [⟨v.a0.toNat, skBytes p⟩]
      bmSrc := [⟨v.a1.toNat, Config.seedBytes⟩, ⟨v.a2.toNat, Config.seedBytes⟩, ⟨v.a3.toNat, p.trBytes⟩] }
  | .unpacksk rd ra rb =>
    { slotDst := [⟨rd, Config.vecK⟩, ⟨ra, Config.vecL⟩, ⟨rb, Config.vecK⟩]
      bmDst := [⟨v.a1.toNat, Config.seedBytes⟩, ⟨v.a2.toNat, Config.seedBytes⟩, ⟨v.a3.toNat, p.trBytes⟩]
      bmSrc := [⟨v.a0.toNat, skBytes p⟩] }
  | .packsig ra rb =>
    { slotSrc := [⟨ra, Config.vecL⟩, ⟨rb, Config.vecK⟩]
      bmDst := [⟨v.a0.toNat, sigBytes⟩]
      bmSrc := [⟨v.a1.toNat, Config.seedBytes⟩] }
  | .unpacksig ra rb =>
    { slotDst := [⟨ra, Config.vecL⟩, ⟨rb, Config.vecK⟩]
      bmDst := [⟨v.a1.toNat, Config.seedBytes⟩]
      bmSrc := [⟨v.a0.toNat, sigBytes⟩] }
  | .ldpoly rd vl => unpackFrom rd vl.count v.a0 (vl.count * 1024)
  | .stpoly ra vl => packTo ra vl.count v.a0 (vl.count * 1024)
  | .pzero rd vl => dst rd vl.count
  | .bzero => { bmDst := [⟨v.a0.toNat, v.a1.toNat⟩] }
  | .wipe => { slotDst := [⟨0, p.nslot⟩], bmDst := [⟨0, p.bmSize⟩] }

/-- Run a command's effect only if its checks pass; otherwise end it with the first failing check's code and no other
effect (R303). -/
@[inline] def checked (i : Instr) (s : State) (effect : Result) : Result :=
  match validate s.params (operandsOf i s.params s.argv) with
  | some e => .next (s.endWithError e)
  | none => effect

end Sys2Proof.Machine
end

