-- ==== Sys2Proof/Machine/Modular.lean ====
section
/-! DEFINITION. Modular arithmetic: Montgomery reduction, the partial reduction and the conditional addition of Q, and
the scalar commands SMONT, SRED, SCADDQ (spec/40_modular_arith.md). Intermediates are exact integers; the result is
narrowed once, at the end (spec/00_scope.md R12). -/

namespace Sys2Proof.Machine

/-- `montgomery_reduce(a)` (R100): t is the low 32 bits of a·QINV read as signed, and the result bits [63:32] of
a - t·Q. -/
def montgomeryReduce (a : Int) : Word :=
  low32 (sar (a - (low32 (a * Config.qinv)).toInt * Config.q) 32)

/-- `reduce32(a)` (R101): a - ((a + 2^22) >> 23)·Q, the sum exact. -/
def reduce32 (a : Int) : Word := low32 (a - sar (a + 4194304) 23 * Config.q)

/-- `caddq(a)` (R102): `(a >> 31) & Q` is Q for a negative 32-bit a and 0 otherwise. -/
def caddq (a : Int) : Word := low32 (a + if a < 0 then Config.q else 0)

/-- The product of two coefficients with the Montgomery correction, from the exact 64-bit product (R166). -/
def mulMont (x y : Word) : Word := montgomeryReduce (x.toInt * y.toInt)

/-- SMONT's operand: the signed 64-bit value ARG[1], ARG[0], the high word first (R76). -/
def smontOperand (v : Args) : Int := (v.a1 ++ v.a0 : BitVec 64).toInt

/-- SMONT (R103). -/
def execSmont (s : State) : Result := .next (s.complete (montgomeryReduce (smontOperand s.argv)) 0)

/-- SRED (R104). -/
def execSred (s : State) : Result := .next (s.complete (reduce32 s.argv.a0.toInt) 0)

/-- SCADDQ (R105). -/
def execScaddq (s : State) : Result := .next (s.complete (caddq s.argv.a0.toInt) 0)

end Sys2Proof.Machine
end

