-- ==== Sys2Proof/Machine/Rounding.lean ====
section
/-! DEFINITION. Rounding and hints: power2round, decompose, make_hint, use_hint, and the scalar commands SP2R, SDECOMP,
SMKHINT, SUSEHINT (spec/41_rounding_hints.md). -/

namespace Sys2Proof.Machine

/-- The exact high part of `power2round`: (a + 2^(D-1) - 1) >> D (R120). -/
def p2rHigh (a : Int) : Int := sar (a + 4095) Config.dBits

/-- `power2round(a)` (R120): the pair (a1, a0). -/
def power2round (a : Int) : Word × Word := (low32 (p2rHigh a), low32 (a - p2rHigh a * 8192))

/-- The high part of `decompose` (R121): with b = (a + 127) >> 7, the low 4 bits of (b·1025 + 2^21) >> 22. -/
def decomposeHigh (a : Int) : Int := sar (sar (a + 127) 7 * 1025 + 2097152) 22 % 16

/-- The exact low part of `decompose` (R121): a - a1·2·GAMMA2, less Q where it exceeds (Q-1)/2. -/
def decomposeLow (a : Int) : Int :=
  let a0 := a - decomposeHigh a * 2 * Config.gamma2
  if a0 > (Config.q - 1) / 2 then a0 - Config.q else a0

/-- `decompose(a)` (R121): the pair (a1, a0). -/
def decompose (a : Int) : Word × Word := (low32 (decomposeHigh a), low32 (decomposeLow a))

/-- `make_hint(a0, a1)` (R122; spec/90_conflicts.md C5). -/
def makeHint (a0 a1 : Int) : Word :=
  if a0 > Config.gamma2 ∨ a0 < -Config.gamma2 ∨ (a0 = -Config.gamma2 ∧ a1 ≠ 0) then 1 else 0

/-- `use_hint(a, hint)` (R123): every nonzero hint acts as 1. The test a0 > 0 is on the 32-bit value `decompose`
returns. -/
def useHint (a : Int) (hint : Word) : Word :=
  if hint = 0 then (decompose a).1
  else if (decompose a).2.toInt > 0 then low32 ((decomposeHigh a + 1) % 16)
  else low32 ((decomposeHigh a - 1) % 16)

/-- SP2R (R124). -/
def execSp2r (s : State) : Result :=
  .next (s.complete (power2round s.argv.a0.toInt).1 (power2round s.argv.a0.toInt).2)

/-- SDECOMP (R125). -/
def execSdecomp (s : State) : Result :=
  .next (s.complete (decompose s.argv.a0.toInt).1 (decompose s.argv.a0.toInt).2)

/-- SMKHINT (R126): a0 is ARG[0], a1 is ARG[1]. -/
def execSmkhint (s : State) : Result := .next (s.complete (makeHint s.argv.a0.toInt s.argv.a1.toInt) 0)

/-- SUSEHINT (R127): a is ARG[0], the hint ARG[1]. -/
def execSusehint (s : State) : Result := .next (s.complete (useHint s.argv.a0.toInt s.argv.a1) 0)

end Sys2Proof.Machine
end

