-- ==== Sys2Proof/Machine/PolyArith.lean ====
section
/-! DEFINITION. The polynomial element-wise adder, subtractor, shifter, reducers and multipliers, the lifted rounding and
hints, and the norm check (spec/43_poly_arith.md). -/

namespace Sys2Proof.Machine

/-! ## The lifting convention (R160) -/

/-- A one-source lift: P[rd + s] <- f(P[ra + s]) for s in 0 .. n-1, RESULT and RESULT1 <- 0 (R160). -/
def lift1 (i : Instr) (rd ra n : Nat) (f : Poly → Poly) (s : State) : Result :=
  checked i s <| withSlots s ra n fun as => .next ((s.writeSlots rd (as.map f)).complete 0 0)

/-- A two-source lift: P[rd + s] <- f(P[ra + s], P[rb + s]) for s in 0 .. n-1 (R160). -/
def lift2 (i : Instr) (rd ra rb n : Nat) (f : Poly → Poly → Poly) (s : State) : Result :=
  checked i s <| withSlots s ra n fun as => withSlots s rb n fun bs =>
    .next ((s.writeSlots rd (List.zipWith f as bs)).complete 0 0)

/-- A lift with two results: P[rd + s] <- f(P[ra + s]) and P[rb + s] <- g(P[ra + s]) (R169, R170). -/
def lift1Pair (i : Instr) (rd rb ra n : Nat) (f g : Poly → Poly) (s : State) : Result :=
  checked i s <| withSlots s ra n fun as =>
    .next (((s.writeSlots rd (as.map f)).writeSlots rb (as.map g)).complete 0 0)

/-! ## Adder, subtractor, shifter, reducers -/

/-- PADD (R161): low32 of the sum, no reduction. -/
def execPadd (rd ra rb : Nat) (vl : VecLen) (s : State) : Result :=
  lift2 (.padd rd ra rb vl) rd ra rb vl.count (Poly.zipWith fun x y => low32 (x.toInt + y.toInt)) s

/-- PSUB (R162): low32 of the difference. -/
def execPsub (rd ra rb : Nat) (vl : VecLen) (s : State) : Result :=
  lift2 (.psub rd ra rb vl) rd ra rb vl.count (Poly.zipWith fun x y => low32 (x.toInt - y.toInt)) s

/-- PSHL (R163): low32 of the product with 2^D. -/
def execPshl (rd ra : Nat) (vl : VecLen) (s : State) : Result :=
  lift1 (.pshl rd ra vl) rd ra vl.count (Poly.map fun x => low32 (x.toInt * 8192)) s

/-- PRED (R164). -/
def execPred (rd ra : Nat) (vl : VecLen) (s : State) : Result :=
  lift1 (.pred rd ra vl) rd ra vl.count (Poly.map fun x => reduce32 x.toInt) s

/-- PCADDQ (R165). -/
def execPcaddq (rd ra : Nat) (vl : VecLen) (s : State) : Result :=
  lift1 (.pcaddq rd ra vl) rd ra vl.count (Poly.map fun x => caddq x.toInt) s

/-! ## Multipliers -/

/-- The pointwise Montgomery product of two polynomials (R166). -/
def Poly.mulMont (p r : Poly) : Poly := Poly.zipWith Sys2Proof.Machine.mulMont p r

/-- Adding one term to an accumulator, without reduction (R168, R190). -/
def Poly.addTo (acc t : Poly) : Poly := Poly.zipWith (fun x y => low32 (x.toInt + y.toInt)) acc t

/-- The pointwise dot product of two vectors of equal length (R168): the first term, then the others added in order. -/
def dotMont : List Poly → List Poly → Poly
  | a :: as, b :: bs => (List.zipWith Poly.mulMont as bs).foldl Poly.addTo (Poly.mulMont a b)
  | _, _ => Poly.const 0

/-- PPWM (R166). -/
def execPpwm (rd ra rb : Nat) (vl : VecLen) (s : State) : Result :=
  lift2 (.ppwm rd ra rb vl) rd ra rb vl.count Poly.mulMont s

/-- PPWMS (R167): the one polynomial in slot ra times each polynomial of the vector at rb. -/
def execPpwms (rd ra rb : Nat) (vl : VecLen) (s : State) : Result :=
  checked (.ppwms rd ra rb vl) s <| withSlots s ra 1 fun as => withSlots s rb vl.count fun bs =>
    .next ((s.writeSlots rd (as.flatMap fun a => bs.map (Poly.mulMont a))).complete 0 0)

/-- PPWACC (R168). -/
def execPpwacc (rd ra rb : Nat) (vl : VecLen) (s : State) : Result :=
  checked (.ppwacc rd ra rb vl) s <| withSlots s ra vl.count fun as => withSlots s rb vl.count fun bs =>
    .next ((s.writeSlots rd [dotMont as bs]).complete 0 0)

/-! ## Lifted rounding and hints -/

/-- PP2R (R169): a1 to rd, a0 to rb. -/
def execPp2r (rd ra rb : Nat) (vl : VecLen) (s : State) : Result :=
  lift1Pair (.pp2r rd ra rb vl) rd rb ra vl.count (Poly.map fun x => (power2round x.toInt).1)
    (Poly.map fun x => (power2round x.toInt).2) s

/-- PDECOMP (R170): a1 to rd, a0 to rb. -/
def execPdecomp (rd ra rb : Nat) (vl : VecLen) (s : State) : Result :=
  lift1Pair (.pdecomp rd ra rb vl) rd rb ra vl.count (Poly.map fun x => (decompose x.toInt).1)
    (Poly.map fun x => (decompose x.toInt).2) s

/-- The hints of a pair (a0, a1) of polynomials (R171). -/
def hintPoly (a0 a1 : Poly) : Poly := Poly.zipWith (fun x y => makeHint x.toInt y.toInt) a0 a1

/-- How many coefficients of a polynomial are nonzero (R17). -/
def Poly.weight (p : Poly) : Nat := p.coeffs.countP fun c => c != 0

/-- The weight of a vector: the number of its nonzero coefficients (R17, R171, R244). -/
def weightOf (ps : List Poly) : Nat := (ps.map Poly.weight).sum

/-- PMKHINT (R171): RESULT is the total weight of the hints written. -/
def execPmkhint (rd ra rb : Nat) (vl : VecLen) (s : State) : Result :=
  checked (.pmkhint rd ra rb vl) s <| withSlots s ra vl.count fun a0s => withSlots s rb vl.count fun a1s =>
    let hs := List.zipWith hintPoly a0s a1s
    .next ((s.writeSlots rd hs).complete (BitVec.ofNat 32 (weightOf hs)) 0)

/-- PUSEHINT (R172). -/
def execPusehint (rd ra rb : Nat) (vl : VecLen) (s : State) : Result :=
  lift2 (.pusehint rd ra rb vl) rd ra rb vl.count (Poly.zipWith fun x h => useHint x.toInt h) s

/-! ## Norm check -/

/-- The bound is too large: B > (Q-1)/8 (R174). -/
def boundTooLarge (b : Int) : Bool := decide (b > (Config.q - 1) / 8)

/-- Some coefficient's exact absolute value is at least B (R173, R174). -/
def normAtLeast (p : Poly) (b : Int) : Bool := p.coeffs.any fun c => decide ((c.toInt.natAbs : Int) ≥ b)

/-- `chknorm(p, B)` (R174). -/
def chkNorm (p : Poly) (b : Int) : Bool := boundTooLarge b || normAtLeast p b

/-- PCHKNORM (R175). A bound that is too large gives 1 whatever the slots hold, so no slot is read then
(notes/assumptions/18.md). -/
def execPchknorm (ra : Nat) (vl : VecLen) (s : State) : Result :=
  checked (.pchknorm ra vl) s <|
    if boundTooLarge s.argv.a0.toInt then .next (s.complete 1 0)
    else withSlots s ra vl.count fun ps =>
      .next (s.complete (if ps.any fun p => chkNorm p s.argv.a0.toInt then 1 else 0) 0)

end Sys2Proof.Machine
end

