-- ==== Sys2Proof/Machine/Packing.lean ====
section
/-! DEFINITION. The per-field bit packers and the hint compression (spec/46_bit_packing.md). -/

namespace Sys2Proof.Machine

/-! ## Bit layout (R230) -/

/-- A polynomial's fields of w bits as bytes (R230): the fields are the base-2^w digits of one little-endian integer
of 256·w bits. -/
def packFields (w : Nat) (fs : List Nat) : List Byte := natToBytes (packedBytes w) (ofDigits w fs)

/-- The 256 fields of w bits of a byte string (R230). -/
def unpackFields (w : Nat) (bs : List Byte) : List Nat := digits w Config.polyLen (bytesToNat bs)

/-- `x & (2^w - 1)`: the low w bits of the two's-complement image of x (R12, R232). -/
def lowField (w : Nat) (x : Int) : Nat := (BitVec.ofInt w x).toNat

/-- One polynomial packed: its field map, then the bit layout (R231). -/
def packPoly (w : Nat) (field : Int → Int) (p : Poly) : List Byte :=
  packFields w (p.coeffs.map fun c => lowField w (field c.toInt))

/-- One polynomial unpacked: the bit layout, then the coefficient map (R231). -/
def unpackPoly (w : Nat) (coeff : Int → Int) (bs : List Byte) : Poly :=
  ⟨(unpackFields w bs).map fun (f : Nat) => low32 (coeff f), by simp [unpackFields, digits_length]⟩
where
  /-- There are as many digits as asked for. -/
  digits_length : ∀ (n v : Nat), (digits w n v).length = n
    | 0, _ => rfl
    | n + 1, v => by simp [digits, digits_length n]

/-! ## The formats (R231) -/

/-- t1: 10 bits, unbiased. -/
def packT1 (p : Poly) : List Byte := packPoly 10 (fun a => a) p
/-- t1 unpacked. -/
def unpackT1 (bs : List Byte) : Poly := unpackPoly 10 (fun f => f) bs
/-- t0: 13 bits, bias 2^12. -/
def packT0 (p : Poly) : List Byte := packPoly 13 (fun a => 4096 - a) p
/-- t0 unpacked. -/
def unpackT0 (bs : List Byte) : Poly := unpackPoly 13 (fun f => 4096 - f) bs
/-- eta: 3 bits, bias ETA. -/
def packEta (p : Poly) : List Byte := packPoly 3 (fun a => Config.eta - a) p
/-- eta unpacked. -/
def unpackEta (bs : List Byte) : Poly := unpackPoly 3 (fun f => Config.eta - f) bs
/-- z: 20 bits, bias GAMMA1. -/
def packZ (p : Poly) : List Byte := packPoly 20 (fun a => Config.gamma1 - a) p
/-- z unpacked. -/
def unpackZ (bs : List Byte) : Poly := unpackPoly 20 (fun f => Config.gamma1 - f) bs
/-- w1: 4 bits, unbiased. There is no w1 unpacker (R242). -/
def packW1 (p : Poly) : List Byte := packPoly 4 (fun a => a) p

/-- A byte string cut into n pieces of len bytes. -/
def pieces (len : Nat) : Nat → List Byte → List (List Byte)
  | 0, _ => []
  | n + 1, bs => bs.take len :: pieces len n (bs.drop len)

/-- A vector unpacked: polynomial s from bytes [len·s, len·(s+1)) (R230). -/
def unpackVec (len n : Nat) (unpack : List Byte → Poly) (bs : List Byte) : List Poly := (pieces len n bs).map unpack

/-- A pack command: BM[a ..] <- the n polynomials packed one after the other, a = ARG[0]; RESULT and RESULT1 <- 0. -/
def packCmd (i : Instr) (ra n : Nat) (pack : Poly → List Byte) (s : State) : Result :=
  checked i s <| withSlots s ra n fun ps =>
    .next ((s.writeBytes s.argv.a0.toNat (ps.flatMap pack)).complete 0 0)

/-- An unpack command: P[rd + s] <- the polynomial in bytes [a + len·s, a + len·(s+1)), a = ARG[0]. -/
def unpackCmd (i : Instr) (rd n len : Nat) (unpack : List Byte → Poly) (s : State) : Result :=
  checked i s <| withBytes s s.argv.a0.toNat (n * len) fun bs =>
    .next ((s.writeSlots rd (unpackVec len n unpack bs)).complete 0 0)

/-- PKT1 (R233). -/
def execPkt1 (ra : Nat) (vl : VecLen) (s : State) : Result := packCmd (.pkt1 ra vl) ra vl.count packT1 s
/-- UPKT1 (R234). -/
def execUpkt1 (rd : Nat) (vl : VecLen) (s : State) : Result :=
  unpackCmd (.upkt1 rd vl) rd vl.count (packedBytes 10) unpackT1 s
/-- PKT0 (R235). -/
def execPkt0 (ra : Nat) (vl : VecLen) (s : State) : Result := packCmd (.pkt0 ra vl) ra vl.count packT0 s
/-- UPKT0 (R236). -/
def execUpkt0 (rd : Nat) (vl : VecLen) (s : State) : Result :=
  unpackCmd (.upkt0 rd vl) rd vl.count (packedBytes 13) unpackT0 s
/-- PKETA (R237). -/
def execPketa (ra : Nat) (vl : VecLen) (s : State) : Result := packCmd (.pketa ra vl) ra vl.count packEta s
/-- UPKETA (R238). -/
def execUpketa (rd : Nat) (vl : VecLen) (s : State) : Result :=
  unpackCmd (.upketa rd vl) rd vl.count (packedBytes 3) unpackEta s
/-- PKZ (R239). -/
def execPkz (ra : Nat) (vl : VecLen) (s : State) : Result := packCmd (.pkz ra vl) ra vl.count packZ s
/-- UPKZ (R240). -/
def execUpkz (rd : Nat) (vl : VecLen) (s : State) : Result :=
  unpackCmd (.upkz rd vl) rd vl.count (packedBytes 20) unpackZ s
/-- PKW1 (R241). -/
def execPkw1 (ra : Nat) (vl : VecLen) (s : State) : Result := packCmd (.pkw1 ra vl) ra vl.count packW1 s

/-! ## Hint compression (R243 to R247) -/

/-- The indices of the nonzero entries of a list whose first entry has index j, ascending (R243). -/
def hintIndicesFrom (j : Nat) : List Word → List Nat
  | [] => []
  | c :: cs => if c = 0 then hintIndicesFrom (j + 1) cs else j :: hintIndicesFrom (j + 1) cs

/-- The indices of the nonzero coefficients of a row, ascending (R243). -/
def hintIndices (p : Poly) : List Nat := hintIndicesFrom 0 p.coeffs

/-- The running counts of the rows, starting from k (R243). -/
def runningCounts (k : Nat) : List Poly → List Nat
  | [] => []
  | p :: ps => (k + (hintIndices p).length) :: runningCounts (k + (hintIndices p).length) ps

/-- `pack_hint(h)` for a vector of weight at most OMEGA (R243): the indices, row 0 first; zeros up to OMEGA; the running
counts. -/
def packHint (h : List Poly) : List Byte :=
  let idx := h.flatMap hintIndices
  (idx ++ List.replicate (Config.omega - idx.length) 0 ++ runningCounts 0 h).map (BitVec.ofNat 8)

/-- The sequence is strictly increasing (R246). -/
def strictlyRising : List Nat → Bool
  | a :: b :: l => decide (a < b) && strictlyRising (b :: l)
  | _ => true

/-- The row with a 1 at each of the given indices and 0 elsewhere (R246). -/
def hintRow (js : List Nat) : Poly := Poly.ofFn fun j => if j ∈ js then 1 else 0

/-- The rows of `unpack_hint` for the counts that are left, k indices being used already (R246). A count below k or above
OMEGA, or a row that does not rise strictly, rejects; when the rows are done every index byte from k on must be 0. -/
def unpackRows (y : List Nat) (k : Nat) : List Nat → Option (List Poly)
  | [] => if (y.drop k).all (· == 0) then some [] else none
  | c :: cs =>
    if c < k ∨ c > Config.omega then none
    else if strictlyRising ((y.drop k).take (c - k)) then
      (unpackRows y c cs).map (hintRow ((y.drop k).take (c - k)) :: ·)
    else none

/-- `unpack_hint(y)` (R246): the K rows, or none for a reject. -/
def unpackHint (bs : List Byte) : Option (List Poly) :=
  let y := bs.map BitVec.toNat
  unpackRows (y.take Config.omega) 0 (y.drop Config.omega)

/-- PKHINT (R244): HINT_OVERFLOW, with no byte written, above OMEGA; else the hint table and the weight. -/
def execPkhint (ra : Nat) (s : State) : Result :=
  checked (.pkhint ra) s <| withSlots s ra Config.vecK fun h =>
    if weightOf h > Config.omega then .next (s.endWithError .hintOverflow)
    else .next ((s.writeBytes s.argv.a0.toNat (packHint h)).complete (BitVec.ofNat 32 (weightOf h)) 0)

/-- UPKHINT (R247): a reject is RESULT = 1 and leaves the destination slots UNSPECIFIED, hence unwritten. -/
def execUpkhint (rd : Nat) (s : State) : Result :=
  checked (.upkhint rd) s <| withBytes s s.argv.a0.toNat Config.hintBytes fun y =>
    match unpackHint y with
    | some h => .next ((s.writeSlots rd h).complete 0 0)
    | none => .next ((s.clearSlots rd Config.vecK).complete 1 0)

end Sys2Proof.Machine
end

