-- ==== Sys2Proof/Machine/KeySig.lean ====
section
/-! DEFINITION. The public key, secret key and signature packers (spec/47_key_sig_packing.md). -/

namespace Sys2Proof.Machine

/-- PACKPK (R263): rho (ARG[1]), then t1, to the pk address (ARG[0]). -/
def execPackpk (ra : Nat) (s : State) : Result :=
  checked (.packpk ra) s <| withBytes s s.argv.a1.toNat Config.seedBytes fun rho =>
    withSlots s ra Config.vecK fun t1 =>
      .next ((s.writeBytes s.argv.a0.toNat (rho ++ t1.flatMap packT1)).complete 0 0)

/-- UNPACKPK (R264): rho to ARG[1], t1 to rd. -/
def execUnpackpk (rd : Nat) (s : State) : Result :=
  checked (.unpackpk rd) s <| withBytes s s.argv.a0.toNat pkBytes fun pk =>
    .next (((s.writeBytes s.argv.a1.toNat (pk.take Config.seedBytes)).writeSlots rd
      (unpackVec (packedBytes 10) Config.vecK unpackT1 (pk.drop Config.seedBytes))).complete 0 0)

/-- PACKSK (R265): rho (ARG[1]), key (ARG[2]), tr (ARG[3]), s1 (ra), s2 (rb), t0 (rd), to the sk address (ARG[0]). -/
def execPacksk (rd ra rb : Nat) (s : State) : Result :=
  checked (.packsk rd ra rb) s <|
    withBytes s s.argv.a1.toNat Config.seedBytes fun rho =>
    withBytes s s.argv.a2.toNat Config.seedBytes fun key =>
    withBytes s s.argv.a3.toNat s.params.trBytes fun tr =>
    withSlots s ra Config.vecL fun s1 =>
    withSlots s rb Config.vecK fun s2 =>
    withSlots s rd Config.vecK fun t0 =>
      .next ((s.writeBytes s.argv.a0.toNat
        (rho ++ key ++ tr ++ s1.flatMap packEta ++ s2.flatMap packEta ++ t0.flatMap packT0)).complete 0 0)

/-- UNPACKSK (R266): rho to ARG[1], key to ARG[2], tr to ARG[3], s1 to ra, s2 to rb, t0 to rd. -/
def execUnpacksk (rd ra rb : Nat) (s : State) : Result :=
  checked (.unpacksk rd ra rb) s <| withBytes s s.argv.a0.toNat (skBytes s.params) fun sk =>
    let raw := ((s.writeBytes s.argv.a1.toNat (sk.take Config.seedBytes)).writeBytes s.argv.a2.toNat
      ((sk.drop Config.seedBytes).take Config.seedBytes)).writeBytes s.argv.a3.toNat
      ((sk.drop (2 * Config.seedBytes)).take s.params.trBytes)
    let vecs := ((raw.writeSlots ra (unpackVec (packedBytes 3) Config.vecL unpackEta (sk.drop (skS1 s.params)))).writeSlots rb
      (unpackVec (packedBytes 3) Config.vecK unpackEta (sk.drop (skS2 s.params)))).writeSlots rd
      (unpackVec (packedBytes 13) Config.vecK unpackT0 (sk.drop (skT0 s.params)))
    .next (vecs.complete 0 0)

/-- PACKSIG (R267): HINT_OVERFLOW, with no byte written, where the weight of h (rb) is above OMEGA; else the challenge
seed (ARG[1]), z (ra) and the hint table, to the sig address (ARG[0]), and the weight. The weight is decided from h
before anything else is read (notes/assumptions/19.md). -/
def execPacksig (ra rb : Nat) (s : State) : Result :=
  checked (.packsig ra rb) s <| withSlots s rb Config.vecK fun h =>
    if weightOf h > Config.omega then .next (s.endWithError .hintOverflow)
    else withBytes s s.argv.a1.toNat Config.seedBytes fun c =>
      withSlots s ra Config.vecL fun z =>
        .next ((s.writeBytes s.argv.a0.toNat (c ++ z.flatMap packZ ++ packHint h)).complete
          (BitVec.ofNat 32 (weightOf h)) 0)

/-- UNPACKSIG (R268): the challenge seed to ARG[1] and z to ra in either case; h to rb, or, for a reject, RESULT = 1 and
the slots of h UNSPECIFIED, hence unwritten. -/
def execUnpacksig (ra rb : Nat) (s : State) : Result :=
  checked (.unpacksig ra rb) s <| withBytes s s.argv.a0.toNat sigBytes fun sig =>
    let cz := (s.writeBytes s.argv.a1.toNat (sig.take Config.seedBytes)).writeSlots ra
      (unpackVec (packedBytes 20) Config.vecL unpackZ (sig.drop Config.seedBytes))
    match unpackHint (sig.drop sigHint) with
    | some h => .next ((cz.writeSlots rb h).complete 0 0)
    | none => .next ((cz.clearSlots rb Config.vecK).complete 1 0)

end Sys2Proof.Machine
end

