-- ==== Sys2Proof/Machine/Xof.lean ====
section
/-! DEFINITION. The XOF port (spec/45_samplers.md R200 to R202): the collaborator's function XOF(mode, msg) = SHAKE128(msg)
or SHAKE256(msg), as finite prefixes of the stream. The spec names SHAKE and defines it nowhere: the permutation, the
padding and the rates' use below are FIPS 202's. PRESUMED (notes/assumptions/5.md). -/

namespace Sys2Proof.Machine

/-! ## Keccak-f[1600] (FIPS 202, 3.2 and 3.3)

A lane is a 64-bit string held as a number below 2^64, and the state the list of the 25 lanes A[x, y] at index x + 5y.
PRESUMED. -/

/-- One step of the 8-bit register behind the round constants: shift up, and where the top bit leaves, feed it back into bits
0, 4, 5 and 6. PRESUMED: FIPS 202, 3.2.5. -/
def lfsrStep (r : Nat) : Nat := Nat.xor (Nat.mul 2 r) (Nat.mul (Nat.div r 128) 0x171)

/-- n steps of the register. -/
def lfsrSteps : Nat → Nat → Nat
  | 0, r => r
  | n + 1, r => lfsrSteps n (lfsrStep r)

/-- n output bits of the register, each its bit 0, at the places w, 2w², 2(2w²)², ...: from w = 1 the bits 0, 1, 3, 7, 15, 31
and 63 of a lane. PRESUMED: FIPS 202, 3.2.5. -/
def lfsrBits : Nat → Nat → Nat → Nat
  | 0, _, _ => 0
  | n + 1, w, r => Nat.add (Nat.mul (Nat.mod r 2) w) (lfsrBits n (Nat.mul 2 (Nat.mul w w)) (lfsrStep r))

/-- The round constants of n rounds, seven output bits each. -/
def constantsFrom : Nat → Nat → List Nat
  | 0, _ => []
  | n + 1, r => lfsrBits 7 1 r :: constantsFrom n (lfsrSteps 7 r)

/-- The constants of the 24 rounds, the register starting at 1. PRESUMED: FIPS 202. -/
def roundConstants : List Nat := constantsFrom 24 1

/-- A lane rotated left by n, 0 < n < 64. -/
def rotl (n x : Nat) : Nat :=
  Nat.lor (Nat.shiftRight x (Nat.sub 64 n)) (Nat.land (Nat.shiftLeft x n) 0xFFFFFFFFFFFFFFFF)

/-- The xor of the five lanes of a column (theta). -/
def columnXor (a b c d e : Nat) : Nat := Nat.xor a (Nat.xor b (Nat.xor c (Nat.xor d e)))

/-- chi on one output lane: a xor (not b and c). -/
def chiLane (a b c : Nat) : Nat := Nat.xor a (Nat.land (Nat.xor b 0xFFFFFFFFFFFFFFFF) c)

/-- chi on a row of five lanes. -/
def chiRow (a b c d e : Nat) : List Nat :=
  [chiLane a b c, chiLane b c d, chiLane c d e, chiLane d e a, chiLane e a b]

/-- rho, pi and chi, after theta's xor (rows y = 0 .. 4 of the result), then iota on lane (0, 0). PRESUMED. -/
def keccakRound (rc : Nat) : List Nat → List Nat
  | [a0, a1, a2, a3, a4, a5, a6, a7, a8, a9, a10, a11, a12, a13, a14, a15, a16, a17, a18, a19, a20, a21, a22, a23, a24] =>
    let c0 := columnXor a0 a5 a10 a15 a20
    let c1 := columnXor a1 a6 a11 a16 a21
    let c2 := columnXor a2 a7 a12 a17 a22
    let c3 := columnXor a3 a8 a13 a18 a23
    let c4 := columnXor a4 a9 a14 a19 a24
    let d0 := Nat.xor c4 (rotl 1 c1)
    let d1 := Nat.xor c0 (rotl 1 c2)
    let d2 := Nat.xor c1 (rotl 1 c3)
    let d3 := Nat.xor c2 (rotl 1 c4)
    let d4 := Nat.xor c3 (rotl 1 c0)
    iota rc
      (chiRow (Nat.xor a0 d0) (rotl 44 (Nat.xor a6 d1)) (rotl 43 (Nat.xor a12 d2)) (rotl 21 (Nat.xor a18 d3))
          (rotl 14 (Nat.xor a24 d4))
        ++ chiRow (rotl 28 (Nat.xor a3 d3)) (rotl 20 (Nat.xor a9 d4)) (rotl 3 (Nat.xor a10 d0))
          (rotl 45 (Nat.xor a16 d1)) (rotl 61 (Nat.xor a22 d2))
        ++ chiRow (rotl 1 (Nat.xor a1 d1)) (rotl 6 (Nat.xor a7 d2)) (rotl 25 (Nat.xor a13 d3)) (rotl 8 (Nat.xor a19 d4))
          (rotl 18 (Nat.xor a20 d0))
        ++ chiRow (rotl 27 (Nat.xor a4 d4)) (rotl 36 (Nat.xor a5 d0)) (rotl 10 (Nat.xor a11 d1))
          (rotl 15 (Nat.xor a17 d2)) (rotl 56 (Nat.xor a23 d3))
        ++ chiRow (rotl 62 (Nat.xor a2 d2)) (rotl 55 (Nat.xor a8 d3)) (rotl 39 (Nat.xor a14 d4))
          (rotl 41 (Nat.xor a15 d0)) (rotl 2 (Nat.xor a21 d1)))
  | a => a
where
  /-- iota: the round constant is xored into lane (0, 0). -/
  iota (rc : Nat) : List Nat → List Nat
    | [] => []
    | l :: ls => Nat.xor l rc :: ls

/-- The permutation Keccak-f[1600]. PRESUMED: FIPS 202. -/
def keccakF (a : List Nat) : List Nat := roundConstants.foldl (fun a rc => keccakRound rc a) a

/-! ## The sponge -/

/-- The rate in bytes (R202). -/
def rateOf : XofMode → Nat
  | .shake128 => 168
  | .shake256 => 136

/-- The last bytes of the padded message when k bytes are left in its last block, 0 < k: the SHAKE suffix 1111 and the
padding 10*1. PRESUMED: FIPS 202, 5.1 and 6.2. -/
def shakePad : Nat → List Byte
  | 0 => []
  | 1 => [0x9F]
  | k + 2 => 0x1F :: List.replicate k 0 ++ [0x80]

/-- The padded message. -/
def shakePadded (rate : Nat) (msg : List Byte) : List Byte := msg ++ shakePad (rate - msg.length % rate)

/-- n lanes from a byte string, each from 8 bytes, least significant first. -/
def bytesToLanes : Nat → List Byte → List Nat
  | 0, _ => []
  | n + 1, bs => bytesToNat (bs.take 8) :: bytesToLanes n (bs.drop 8)

/-- Xor a block's lanes into the first lanes of the state. -/
def xorLanes : List Nat → List Nat → List Nat
  | b :: bs, l :: ls => Nat.xor b l :: xorLanes bs ls
  | _, ls => ls

/-- Absorb n blocks of the given rate. -/
def absorb (rate : Nat) : Nat → List Byte → List Nat → List Nat
  | 0, _, a => a
  | n + 1, bs, a => absorb rate n (bs.drop rate) (keccakF (xorLanes (bytesToLanes (rate / 8) (bs.take rate)) a))

/-- Squeeze n blocks of the given rate. -/
def squeeze (rate : Nat) : Nat → List Nat → List Byte
  | 0, _ => []
  | n + 1, a => (a.take (rate / 8)).flatMap (natToBytes 8) ++ squeeze rate n (keccakF a)

/-- The first n bytes of XOF(mode, msg) (R200). PRESUMED: FIPS 202. -/
def xofPrefix (mode : XofMode) (msg : List Byte) (n : Nat) : List Byte :=
  let rate := rateOf mode
  let padded := shakePadded rate msg
  (squeeze rate (n / rate + 1) (absorb rate (padded.length / rate) padded (List.replicate 25 0))).take n

end Sys2Proof.Machine
end

