-- ==== Sys2Proof/Machine/Samplers.lean ====
section
/-! DEFINITION. The XOF-seeded samplers and the commands SUNIF, SETA, SGAMMA1, SCHAL (spec/45_samplers.md).

A rejection loop draws from a finite prefix of its stream. One turn of the sequencer draws at most `samplerChunk` bytes
more of each stream than the last turn did; if that is not enough the command stays BUSY with its XOF session open, and
the sequencer's next turn takes it further (R218, R341): a loop that never accepts enough is a hang. A sampler is a
function of the stream alone, so a turn samples the command's polynomials from their streams' first bytes again, with the
seed that the open session's copied message holds (R67). DESIGN CHOICE (notes/assumptions/6.md). -/

namespace Sys2Proof.Machine

/-! ## Sessions -/

/-- What a sampler has when its stream prefix runs out: accepted or placed coefficients, and the rest of the sign word. -/
structure Shortage where
  count : Nat
  signs : BitVec 64
deriving DecidableEq, Repr

/-- How many bytes of each stream this turn may draw. -/
def streamBudget (s : State) : Nat :=
  (match s.xof with
    | none => 0
    | some x => x.pos) + Config.samplerChunk

/-- Go on with the command's seed of n bytes: from BM at ARG[0] when the command starts (R203), from the message that the open
session copied when the command goes on (R67), so that what BM holds by then does not matter. -/
@[inline] def withSeed (s : State) (n : Nat) (k : List Byte → Result) : Result :=
  match s.xof with
  | some x => k (x.msg.take n)
  | none => withBytes s s.argv.a0.toNat n k

/-- The two nonce bytes, least significant first (R51, R201). -/
def nonceBytes (nonce : Nat) : List Byte := natToBytes 2 nonce

/-- Slot s of a vector samples with nonce (b + s) mod 2^16, b = ARG[1][15:0] (R203). -/
def slotNonce (b : Word) (s : Nat) : Nat := (b.toNat % 65536 + s) % 65536

/-- The sessions' polynomials, in order, or the first session whose prefix runs out. -/
def runSessions (sampler : List Byte → Except Shortage Poly) (mode : XofMode) (budget : Nat) :
    List (List Byte) → Except XofSession (List Poly)
  | [] => .ok []
  | msg :: msgs =>
    match sampler (xofPrefix mode msg budget) with
    | .error h => .error ⟨mode, msg, budget, h.count, h.signs⟩
    | .ok p =>
      match runSessions sampler mode budget msgs with
      | .error x => .error x
      | .ok ps => .ok (p :: ps)

/-- The polynomial of the first 256 accepted coefficients. -/
def takePoly (accepted : List Word) : Except Shortage Poly :=
  match Poly.ofList (accepted.take Config.polyLen) with
  | some p => .ok p
  | none => .error ⟨accepted.length, 0⟩

/-! ## Uniform sampler (R204 to R206) -/

/-- The candidates of a stream: three bytes each, little-endian, bit 23 cleared (R204, R205). -/
def uniformCandidates : List Byte → List Nat
  | b0 :: b1 :: b2 :: bs =>
    (b0.toNat + 256 * b1.toNat + 65536 * b2.toNat) % 8388608 :: uniformCandidates bs
  | _ => []

/-- `uniform_poly` on a stream prefix (R206): candidates below Q are accepted, in order. -/
def uniformSample (bs : List Byte) : Except Shortage Poly :=
  takePoly (((uniformCandidates bs).filter fun (t : Nat) => decide ((t : Int) < Config.q)).map fun (t : Nat) => low32 t)

/-! ## Eta sampler (R208, R209) -/

/-- The candidates of a stream: the low nibble, then the high nibble of each byte (R208). -/
def nibbles : List Byte → List Nat
  | [] => []
  | b :: bs => b.toNat % 16 :: b.toNat / 16 :: nibbles bs

/-- `eta_poly` on a stream prefix (R209): candidates below 15 are accepted and give ETA - (t mod 5). -/
def etaSample (bs : List Byte) : Except Shortage Poly :=
  takePoly (((nibbles bs).filter fun (t : Nat) => decide (t < 15)).map fun (t : Nat) => low32 (Config.eta - ((t % 5 : Nat) : Int)))

/-! ## Gamma1 sampler (R211) -/

/-- `gamma1_poly(seed, nonce)` (R211): the first 640 bytes of the stream, unpacked in the z format. -/
def gamma1Poly (msg : List Byte) : Poly := unpackZ (xofPrefix .shake256 msg (packedBytes 20))

/-! ## Challenge sampler (R213 to R215) -/

/-- The loop of `challenge_poly` with n coefficients still to place, the next at index i = 256 - n (R215): a byte above i
is rejected; otherwise c[i] <- c[b], c[b] <- 1 - 2·(signs & 1), signs <- signs >> 1. -/
def placeSigns : List Byte → Nat → BitVec 64 → List Word → Except Shortage (List Word)
  | _, 0, _, c => .ok c
  | [], n + 1, signs, _ => .error ⟨Config.tau - (n + 1), signs⟩
  | b :: bs, n + 1, signs, c =>
    if b.toNat ≤ 255 - n then
      placeSigns bs n (signs >>> 1)
        ((c.set (255 - n) (c.getD b.toNat 0)).set b.toNat (if signs.getLsbD 0 then low32 (-1) else 1))
    else placeSigns bs (n + 1) signs c

/-- The sign word: the first 8 stream bytes, little-endian (R214). -/
def signWord (bs : List Byte) : BitVec 64 := BitVec.ofNat 64 (bytesToNat (bs.take 8))

/-- `challenge_poly` on a stream prefix (R215). -/
def challengeSample (bs : List Byte) : Except Shortage Poly :=
  match placeSigns (bs.drop 8) Config.tau (signWord bs) (List.replicate Config.polyLen 0) with
  | .error h => .error h
  | .ok c =>
    match Poly.ofList c with
    | some p => .ok p
    | none => .error ⟨0, 0⟩

/-! ## Commands (R203) -/

/-- A rejection sampler: its seed, one session for each message, the polynomials to rd, rd+1, ...; or, where a
stream prefix runs out, the command goes on running. -/
def sampleCmd (i : Instr) (rd : Nat) (sl : SeedLen) (sampler : List Byte → Except Shortage Poly) (mode : XofMode)
    (msgs : List Byte → List (List Byte)) (s : State) : Result :=
  checked i s <| withSeed s sl.bytes fun seed =>
    match runSessions sampler mode (streamBudget s) (msgs seed) with
    | .error x => .next { s with xof := some x }
    | .ok ps => .next ((s.writeSlots rd ps).complete 0 0)

/-- The messages of a vector sampler: the seed and each slot's nonce (R201, R203). -/
def slotMsgs (n : Nat) (b : Word) (seed : List Byte) : List (List Byte) :=
  (List.range n).map fun k => seed ++ nonceBytes (slotNonce b k)

/-- SUNIF (R207). -/
def execSunif (rd : Nat) (vl : VecLen) (sl : SeedLen) (s : State) : Result :=
  sampleCmd (.sunif rd vl sl) rd sl uniformSample .shake128 (slotMsgs vl.count s.argv.a1) s

/-- SETA (R210). -/
def execSeta (rd : Nat) (vl : VecLen) (sl : SeedLen) (s : State) : Result :=
  sampleCmd (.seta rd vl sl) rd sl etaSample .shake256 (slotMsgs vl.count s.argv.a1) s

/-- SGAMMA1 (R212): no rejection, so it always ends within its turn (R218). -/
def execSgamma1 (rd : Nat) (vl : VecLen) (sl : SeedLen) (s : State) : Result :=
  checked (.sgamma1 rd vl sl) s <| withBytes s s.argv.a0.toNat sl.bytes fun seed =>
    .next ((s.writeSlots rd ((slotMsgs vl.count s.argv.a1 seed).map gamma1Poly)).complete 0 0)

/-- SCHAL (R216): one session on the seed alone (R213). -/
def execSchal (rd : Nat) (sl : SeedLen) (s : State) : Result :=
  sampleCmd (.schal rd sl) rd sl challengeSample .shake256 (fun seed => [seed]) s

end Sys2Proof.Machine
end

