-- ==== Sys2Proof/Machine/MatVec.lean ====
section
/-! DEFINITION. The matrix-vector multiply over the implicit public matrix (spec/44_matvec.md). -/

namespace Sys2Proof.Machine

/-- The nonce of entry (i, j) is (i << 8) + j (R190): the messages of the entries, row by row. -/
def entryMsgs (rho : List Byte) : List (List Byte) :=
  (List.range Config.vecK).flatMap fun i => (List.range Config.vecL).map fun j => rho ++ nonceBytes (i * 256 + j)

/-- The entries cut into rows of L. -/
def rowsOf : Nat → List Poly → List (List Poly)
  | 0, _ => []
  | n + 1, es => es.take Config.vecL :: rowsOf n (es.drop Config.vecL)

/-- The product: row i is the sum of the rows' terms, the first term then the others added in order (R190), as in
PPWACC (R168, R191). -/
def matProduct (entries vec : List Poly) : List Poly := (rowsOf Config.vecK entries).map fun row => dotMont row vec

/-- MATVEC (R190). The source vector is read on every turn, right after the seed and before any entry is sampled: the rule
reads slot ra + j after sampling entry (0, j), so there an unwritten slot of a command that a short stream or an ABORT ends
first would be no fault. DESIGN CHOICE (notes/assumptions/27.md). The hidden buffers end with the last entry and the last
row's sum (R40; notes/assumptions/8.md). -/
def execMatvec (rd ra : Nat) (sl : SeedLen) (s : State) : Result :=
  checked (.matvec rd ra sl) s <| withSeed s sl.bytes fun rho =>
    withSlots s ra Config.vecL fun vec =>
      match runSessions uniformSample .shake128 (streamBudget s) (entryMsgs rho) with
      | .error x => .next { s with xof := some x }
      | .ok entries =>
        let rows := matProduct entries vec
        .next ({ s.writeSlots rd rows with
            matEntry := entries.getLastD (Poly.const 0), matAcc := rows.getLastD (Poly.const 0) }.complete 0 0)

end Sys2Proof.Machine
end

