-- ==== Sys2Proof/Machine/Ntt.lean ====
section
/-! DEFINITION. The NTT butterfly engine: the zeta table, the forward and inverse transforms, and the commands PNTT and
PINVNTT (spec/42_ntt.md). -/

namespace Sys2Proof.Machine

/-! ## Constants (R140, R141) -/

/-- ZETAS[0 .. 15] (R140). -/
def zetas0 : List Int :=
  [0, 25847, -2608894, -518909, 237124, -777960, -876248, 466468,
   1826347, 2353451, -359251, -2091905, 3119733, -2884855, 3111497, 2680103]
/-- ZETAS[16 .. 31] (R140). -/
def zetas16 : List Int :=
  [2725464, 1024112, -1079900, 3585928, -549488, -1119584, 2619752, -2108549,
   -2118186, -3859737, -1399561, -3277672, 1757237, -19422, 4010497, 280005]
/-- ZETAS[32 .. 47] (R140). -/
def zetas32 : List Int :=
  [2706023, 95776, 3077325, 3530437, -1661693, -3592148, -2537516, 3915439,
   -3861115, -3043716, 3574422, -2867647, 3539968, -300467, 2348700, -539299]
/-- ZETAS[48 .. 63] (R140). -/
def zetas48 : List Int :=
  [-1699267, -1643818, 3505694, -3821735, 3507263, -2140649, -1600420, 3699596,
   811944, 531354, 954230, 3881043, 3900724, -2556880, 2071892, -2797779]
/-- ZETAS[64 .. 79] (R140). -/
def zetas64 : List Int :=
  [-3930395, -1528703, -3677745, -3041255, -1452451, 3475950, 2176455, -1585221,
   -1257611, 1939314, -4083598, -1000202, -3190144, -3157330, -3632928, 126922]
/-- ZETAS[80 .. 95] (R140). -/
def zetas80 : List Int :=
  [3412210, -983419, 2147896, 2715295, -2967645, -3693493, -411027, -2477047,
   -671102, -1228525, -22981, -1308169, -381987, 1349076, 1852771, -1430430]
/-- ZETAS[96 .. 111] (R140). -/
def zetas96 : List Int :=
  [-3343383, 264944, 508951, 3097992, 44288, -1100098, 904516, 3958618,
   -3724342, -8578, 1653064, -3249728, 2389356, -210977, 759969, -1316856]
/-- ZETAS[112 .. 127] (R140). -/
def zetas112 : List Int :=
  [189548, -3553272, 3159746, -1851402, -2409325, -177440, 1315589, 1341330,
   1285669, -1584928, -812732, -1439742, -3019102, -3881060, -3628969, 3839961]
/-- ZETAS[128 .. 143] (R140). -/
def zetas128 : List Int :=
  [2091667, 3407706, 2316500, 3817976, -3342478, 2244091, -2446433, -3562462,
   266997, 2434439, -1235728, 3513181, -3520352, -3759364, -1197226, -3193378]
/-- ZETAS[144 .. 159] (R140). -/
def zetas144 : List Int :=
  [900702, 1859098, 909542, 819034, 495491, -1613174, -43260, -522500,
   -655327, -3122442, 2031748, 3207046, -3556995, -525098, -768622, -3595838]
/-- ZETAS[160 .. 175] (R140). -/
def zetas160 : List Int :=
  [342297, 286988, -2437823, 4108315, 3437287, -3342277, 1735879, 203044,
   2842341, 2691481, -2590150, 1265009, 4055324, 1247620, 2486353, 1595974]
/-- ZETAS[176 .. 191] (R140). -/
def zetas176 : List Int :=
  [-3767016, 1250494, 2635921, -3548272, -2994039, 1869119, 1903435, -1050970,
   -1333058, 1237275, -3318210, -1430225, -451100, 1312455, 3306115, -1962642]
/-- ZETAS[192 .. 207] (R140). -/
def zetas192 : List Int :=
  [-1279661, 1917081, -2546312, -1374803, 1500165, 777191, 2235880, 3406031,
   -542412, -2831860, -1671176, -1846953, -2584293, -3724270, 594136, -3776993]
/-- ZETAS[208 .. 223] (R140). -/
def zetas208 : List Int :=
  [-2013608, 2432395, 2454455, -164721, 1957272, 3369112, 185531, -1207385,
   -3183426, 162844, 1616392, 3014001, 810149, 1652634, -3694233, -1799107]
/-- ZETAS[224 .. 239] (R140). -/
def zetas224 : List Int :=
  [-3038916, 3523897, 3866901, 269760, 2213111, -975884, 1717735, 472078,
   -426683, 1723600, -1803090, 1910376, -1667432, -1104333, -260646, -3833893]
/-- ZETAS[240 .. 255] (R140). -/
def zetas240 : List Int :=
  [-2939036, -2235985, -420899, -2286327, 183443, -976891, 1612842, -3545687,
   -554416, 3919660, -48306, -1362209, 3937738, 1400424, -846154, 1976782]

/-- The zeta table ZETAS[0..255] (R140). -/
def zetas : List Int :=
  zetas0 ++ zetas16 ++ zetas32 ++ zetas48 ++ zetas64 ++ zetas80 ++ zetas96 ++ zetas112
    ++ zetas128 ++ zetas144 ++ zetas160 ++ zetas176 ++ zetas192 ++ zetas208 ++ zetas224 ++ zetas240

/-- ZETAS[k] (R140). -/
def zeta (k : Nat) : Int := zetas.getD k 0

/-- F, the scaling constant of the inverse transform (R141). -/
def invScale : Int := 41978

/-! ## The butterflies -/

/-- The upper output of a forward butterfly: low32(a[j] + t) (R142). -/
def addWord (x t : Word) : Word := low32 (x.toInt + t.toInt)

/-- The lower output of a forward butterfly: low32(a[j] - t) (R142). -/
def subWord (x t : Word) : Word := low32 (x.toInt - t.toInt)

/-- A coefficient times an integer constant, with the Montgomery correction (R142, R144). -/
def scaleMont (z : Int) (x : Word) : Word := montgomeryReduce (z * x.toInt)

/-- One level of `ntt` (R142): n blocks of 2·len coefficients, block b with zeta = ZETAS[k + b]. The butterflies of a
level touch disjoint pairs (a[j], a[j+len]), so a block is computed from its two halves as they were before the level
(notes/assumptions/17.md). -/
def nttLevel (len : Nat) : Nat → Nat → List Word → List Word
  | 0, _, a => a
  | n + 1, k, a =>
    let lo := a.take len
    let t := ((a.drop len).take len).map (scaleMont (zeta k))
    List.zipWith addWord lo t ++ List.zipWith subWord lo t ++ nttLevel len n (k + 1) (a.drop (2 * len))

/-- One level of `invntt_tomont` (R144): n blocks of 2·len coefficients, block b with zeta = -ZETAS[k - b]. -/
def invNttLevel (len : Nat) : Nat → Nat → List Word → List Word
  | 0, _, a => a
  | n + 1, k, a =>
    let lo := a.take len
    let hi := (a.drop len).take len
    List.zipWith addWord lo hi ++ (List.zipWith subWord lo hi).map (scaleMont (-zeta k))
      ++ invNttLevel len n (k - 1) (a.drop (2 * len))

/-- The levels' half-lengths len = 128, 64, ..., 1 of the forward transform (R142). -/
def nttLens : List Nat := [128, 64, 32, 16, 8, 4, 2, 1]

/-- The coefficients of `ntt(a)` (R142): the level of half-length len has 128/len blocks, and k runs on from 128/len. -/
def nttCoeffs (a : List Word) : List Word :=
  nttLens.foldl (fun a len => nttLevel len (128 / len) (128 / len) a) a

/-- The coefficients of `invntt_tomont(a)` (R144): the level of half-length len has 128/len blocks, and k runs down from
256/len - 1; then the multiplication by F. -/
def invNttCoeffs (a : List Word) : List Word :=
  (nttLens.reverse.foldl (fun a len => invNttLevel len (128 / len) (256 / len - 1) a) a).map (scaleMont invScale)

theorem nttLevel_length (len n k : Nat) (a : List Word) (h : a.length = 2 * len * n) :
    (nttLevel len n k a).length = a.length := by
  induction n generalizing k a with
  | zero => rfl
  | succ n ih =>
    have h' : a.length = 2 * len * n + 2 * len := by rw [h, Nat.mul_succ]
    simp only [nttLevel, List.length_append, List.length_zipWith, List.length_map, List.length_take, List.length_drop]
    rw [ih (k + 1) (a.drop (2 * len)) (by rw [List.length_drop]; omega), List.length_drop]
    omega

theorem invNttLevel_length (len n k : Nat) (a : List Word) (h : a.length = 2 * len * n) :
    (invNttLevel len n k a).length = a.length := by
  induction n generalizing k a with
  | zero => rfl
  | succ n ih =>
    have h' : a.length = 2 * len * n + 2 * len := by rw [h, Nat.mul_succ]
    simp only [invNttLevel, List.length_append, List.length_zipWith, List.length_map, List.length_take,
      List.length_drop]
    rw [ih (k - 1) (a.drop (2 * len)) (by rw [List.length_drop]; omega), List.length_drop]
    omega

/-- Passes over 256 coefficients that each keep the length keep it together. -/
theorem foldl_length_of_level (f : List Word → Nat → List Word) (lens : List Nat) (a : List Word)
    (hf : ∀ len ∈ lens, ∀ b : List Word, b.length = 256 → (f b len).length = 256) (h : a.length = 256) :
    (lens.foldl f a).length = 256 := by
  induction lens generalizing a with
  | nil => exact h
  | cons len lens ih =>
    exact ih (f a len) (fun l hl => hf l (List.mem_cons_of_mem _ hl)) (hf len List.mem_cons_self a h)

/-- Every half-length cuts 256 coefficients into 128/len blocks of 2·len. -/
theorem nttLens_blocks : ∀ len ∈ nttLens, 2 * len * (128 / len) = 256 := by decide

theorem nttCoeffs_length (a : List Word) (h : a.length = 256) : (nttCoeffs a).length = 256 :=
  foldl_length_of_level _ _ a
    (fun len hl b hb => (nttLevel_length _ _ _ b (hb.trans (nttLens_blocks len hl).symm)).trans hb) h

theorem invNttCoeffs_length (a : List Word) (h : a.length = 256) : (invNttCoeffs a).length = 256 := by
  rw [invNttCoeffs, List.length_map]
  exact foldl_length_of_level _ _ a
    (fun len hl b hb => (invNttLevel_length _ _ _ b
      (hb.trans (nttLens_blocks len (List.mem_reverse.mp hl)).symm)).trans hb) h

/-- `ntt(a)` (R142). -/
def ntt (p : Poly) : Poly := ⟨nttCoeffs p.coeffs, nttCoeffs_length p.coeffs p.size⟩

/-- `invntt_tomont(a)` (R144). -/
def invNtt (p : Poly) : Poly := ⟨invNttCoeffs p.coeffs, invNttCoeffs_length p.coeffs p.size⟩

/-! ## Commands -/

/-- PNTT (R143). -/
def execPntt (rd ra : Nat) (vl : VecLen) (s : State) : Result := lift1 (.pntt rd ra vl) rd ra vl.count ntt s

/-- PINVNTT (R144). -/
def execPinvntt (rd ra : Nat) (vl : VecLen) (s : State) : Result := lift1 (.pinvntt rd ra vl) rd ra vl.count invNtt s

end Sys2Proof.Machine
end

