-- ==== Sys2Proof/Machine/Transfer.lean ====
section
/-! DEFINITION. The transfer, zeroing and wipe commands, and NOP (spec/48_transfer_wipe.md). -/

namespace Sys2Proof.Machine

/-- The 1024-byte image of a polynomial: each coefficient a little-endian 32-bit word (R280, R281). -/
def polyImage (p : Poly) : List Byte := p.coeffs.flatMap fun c => natToBytes 4 c.toNat

/-- The polynomial of a 1024-byte image (R280). -/
def polyOfImage (bs : List Byte) : Poly :=
  ⟨(pieces 4 Config.polyLen bs).map fun b => BitVec.ofNat 32 (bytesToNat b), by simp [pieces_length]⟩
where
  /-- There are as many pieces as asked for. -/
  pieces_length : ∀ (len n : Nat) (bs : List Byte), (pieces len n bs).length = n
    | _, 0, _ => rfl
    | len, n + 1, bs => by simp [pieces, pieces_length len n]

/-- NOP (R285). -/
def execNop (s : State) : Result := .next (s.complete 0 0)

/-- LDPOLY (R280). -/
def execLdpoly (rd : Nat) (vl : VecLen) (s : State) : Result :=
  unpackCmd (.ldpoly rd vl) rd vl.count 1024 polyOfImage s

/-- STPOLY (R281). -/
def execStpoly (ra : Nat) (vl : VecLen) (s : State) : Result := packCmd (.stpoly ra vl) ra vl.count polyImage s

/-- PZERO (R282). -/
def execPzero (rd : Nat) (vl : VecLen) (s : State) : Result :=
  checked (.pzero rd vl) s <| .next ((s.writeSlots rd (List.replicate vl.count (Poly.const 0))).complete 0 0)

/-- BZERO (R283): ARG[1] zero bytes at ARG[0]. -/
def execBzero (s : State) : Result :=
  checked .bzero s <|
    .next ((s.writeBytes s.argv.a0.toNat (List.replicate s.argv.a1.toNat 0)).complete 0 0)

/-- WIPE (R284): every PM coefficient, every BM byte and the hidden MATVEC buffers become 0. -/
def execWipe (s : State) : Result :=
  checked .wipe s <|
    .next ({ (s.writeSlots 0 (List.replicate s.params.nslot (Poly.const 0))).writeBytes 0
        (List.replicate s.params.bmSize 0) with matEntry := Poly.const 0, matAcc := Poly.const 0 }.complete 0 0)

end Sys2Proof.Machine
end

