-- ==== Sys2Proof/Machine/Dispatch.lean ====
section
/-! DEFINITION. One arm for each command: its meaning. -/

namespace Sys2Proof.Machine

/-- What the sequencer does with a decoded command: one direct call of its meaning. -/
def exec (i : Instr) (s : State) : Host.Outcome State Fault Refusal :=
  match i with
  | .nop => Sys2Proof.Machine.execNop s
  | .smont => Sys2Proof.Machine.execSmont s
  | .sred => Sys2Proof.Machine.execSred s
  | .scaddq => Sys2Proof.Machine.execScaddq s
  | .sp2r => Sys2Proof.Machine.execSp2r s
  | .sdecomp => Sys2Proof.Machine.execSdecomp s
  | .smkhint => Sys2Proof.Machine.execSmkhint s
  | .susehint => Sys2Proof.Machine.execSusehint s
  | .padd rd ra rb vl => Sys2Proof.Machine.execPadd rd ra rb vl s
  | .psub rd ra rb vl => Sys2Proof.Machine.execPsub rd ra rb vl s
  | .pshl rd ra vl => Sys2Proof.Machine.execPshl rd ra vl s
  | .pred rd ra vl => Sys2Proof.Machine.execPred rd ra vl s
  | .pcaddq rd ra vl => Sys2Proof.Machine.execPcaddq rd ra vl s
  | .ppwm rd ra rb vl => Sys2Proof.Machine.execPpwm rd ra rb vl s
  | .ppwms rd ra rb vl => Sys2Proof.Machine.execPpwms rd ra rb vl s
  | .ppwacc rd ra rb vl => Sys2Proof.Machine.execPpwacc rd ra rb vl s
  | .pchknorm ra vl => Sys2Proof.Machine.execPchknorm ra vl s
  | .pp2r rd ra rb vl => Sys2Proof.Machine.execPp2r rd ra rb vl s
  | .pdecomp rd ra rb vl => Sys2Proof.Machine.execPdecomp rd ra rb vl s
  | .pmkhint rd ra rb vl => Sys2Proof.Machine.execPmkhint rd ra rb vl s
  | .pusehint rd ra rb vl => Sys2Proof.Machine.execPusehint rd ra rb vl s
  | .pntt rd ra vl => Sys2Proof.Machine.execPntt rd ra vl s
  | .pinvntt rd ra vl => Sys2Proof.Machine.execPinvntt rd ra vl s
  | .matvec rd ra sl => Sys2Proof.Machine.execMatvec rd ra sl s
  | .sunif rd vl sl => Sys2Proof.Machine.execSunif rd vl sl s
  | .seta rd vl sl => Sys2Proof.Machine.execSeta rd vl sl s
  | .sgamma1 rd vl sl => Sys2Proof.Machine.execSgamma1 rd vl sl s
  | .schal rd sl => Sys2Proof.Machine.execSchal rd sl s
  | .pkt1 ra vl => Sys2Proof.Machine.execPkt1 ra vl s
  | .upkt1 rd vl => Sys2Proof.Machine.execUpkt1 rd vl s
  | .pkt0 ra vl => Sys2Proof.Machine.execPkt0 ra vl s
  | .upkt0 rd vl => Sys2Proof.Machine.execUpkt0 rd vl s
  | .pketa ra vl => Sys2Proof.Machine.execPketa ra vl s
  | .upketa rd vl => Sys2Proof.Machine.execUpketa rd vl s
  | .pkz ra vl => Sys2Proof.Machine.execPkz ra vl s
  | .upkz rd vl => Sys2Proof.Machine.execUpkz rd vl s
  | .pkw1 ra vl => Sys2Proof.Machine.execPkw1 ra vl s
  | .pkhint ra => Sys2Proof.Machine.execPkhint ra s
  | .upkhint rd => Sys2Proof.Machine.execUpkhint rd s
  | .packpk ra => Sys2Proof.Machine.execPackpk ra s
  | .unpackpk rd => Sys2Proof.Machine.execUnpackpk rd s
  | .packsk rd ra rb => Sys2Proof.Machine.execPacksk rd ra rb s
  | .unpacksk rd ra rb => Sys2Proof.Machine.execUnpacksk rd ra rb s
  | .packsig ra rb => Sys2Proof.Machine.execPacksig ra rb s
  | .unpacksig ra rb => Sys2Proof.Machine.execUnpacksig ra rb s
  | .ldpoly rd vl => Sys2Proof.Machine.execLdpoly rd vl s
  | .stpoly ra vl => Sys2Proof.Machine.execStpoly ra vl s
  | .pzero rd vl => Sys2Proof.Machine.execPzero rd vl s
  | .bzero => Sys2Proof.Machine.execBzero s
  | .wipe => Sys2Proof.Machine.execWipe s

end Sys2Proof.Machine
end

