-- ==== Sys2Proof/WellFormed.lean ====
section
/-! DEFINITION. When a term of `Instr` is a command the word format can hold: every slot number fits its 6-bit field
(spec/30_encoding.md R70, R72). The selectors VL and S hold legal values by their types. -/

namespace Sys2Proof

/-- A slot number fits a 6-bit field (R70, R72). -/
def slotFits (x : Nat) : Bool := decide (x < 64)

/-- Every slot operand of the command fits its field. -/
def Instr.wf : Instr → Bool
  | .nop | .smont | .sred | .scaddq | .sp2r | .sdecomp | .smkhint | .susehint => true
  | .bzero | .wipe => true
  | .padd rd ra rb _ | .psub rd ra rb _ | .ppwm rd ra rb _ | .ppwms rd ra rb _ | .ppwacc rd ra rb _
  | .pp2r rd ra rb _ | .pdecomp rd ra rb _ | .pmkhint rd ra rb _ | .pusehint rd ra rb _
  | .packsk rd ra rb | .unpacksk rd ra rb => slotFits rd && slotFits ra && slotFits rb
  | .pshl rd ra _ | .pred rd ra _ | .pcaddq rd ra _ | .pntt rd ra _ | .pinvntt rd ra _
  | .matvec rd ra _ => slotFits rd && slotFits ra
  | .packsig ra rb | .unpacksig ra rb => slotFits ra && slotFits rb
  | .pchknorm ra _ | .pkt1 ra _ | .pkt0 ra _ | .pketa ra _ | .pkz ra _ | .pkw1 ra _ | .pkhint ra
  | .packpk ra | .stpoly ra _ => slotFits ra
  | .sunif rd _ _ | .seta rd _ _ | .sgamma1 rd _ _ | .schal rd _ | .upkt1 rd _ | .upkt0 rd _ | .upketa rd _
  | .upkz rd _ | .upkhint rd | .unpackpk rd | .ldpoly rd _ | .pzero rd _ => slotFits rd

end Sys2Proof
end

