-- ==== Sys2Proof/Decode.lean ====
section
/-! DEFINITION. The command decoder, total on all 2^32 words (spec/30_encoding.md R70, R73 to R75, R79 to R81), and
after it the encoder, written from the same table. -/

namespace Sys2Proof

/-- Why a word is no command (R79): its OP is not in the table, or a reserved or unused field is set. -/
inductive DecodeError where
  | illegalOpcode
  | reservedField
deriving DecidableEq, Repr

/-! ## The fields of a word (R70) -/

/-- OP, bits [7:0]. -/
def opField (w : Word) : Nat := w.toNat % 256
/-- RD, bits [13:8]. -/
def rdField (w : Word) : Nat := w.toNat / 256 % 64
/-- RA, bits [19:14]. -/
def raField (w : Word) : Nat := w.toNat / 16384 % 64
/-- RB, bits [25:20]. -/
def rbField (w : Word) : Nat := w.toNat / 1048576 % 64
/-- VL, bits [27:26]. -/
def vlField (w : Word) : Nat := w.toNat / 67108864 % 4
/-- S, bit [28]. -/
def sField (w : Word) : Nat := w.toNat / 268435456 % 2
/-- RSV, bits [31:29]. -/
def rsvField (w : Word) : Nat := w.toNat / 536870912 % 8

/-- The vector length of a VL field; 3 is reserved (R73). -/
def vlOfCode : Nat → Option VecLen
  | 0 => some .one
  | 1 => some .vecL
  | 2 => some .vecK
  | _ => none

/-- The seed length of an S field (R74). -/
def seedOfCode : Nat → Option SeedLen
  | 0 => some .s32
  | 1 => some .s64
  | _ => none

/-! ## The opcode table (R80) -/

/-- Which fields a row of R80 uses: a field it does not use must be 0 (R75). -/
structure Shape where
  rd : Bool
  ra : Bool
  rb : Bool
  vl : Bool
  sl : Bool
deriving DecidableEq, Repr

/-- The values of a word's fields, after the selectors are read. -/
structure Fields where
  rd : Nat
  ra : Nat
  rb : Nat
  vl : VecLen
  sl : SeedLen
deriving DecidableEq, Repr

/-- No field but OP. -/
def shNone : Shape := ⟨false, false, false, false, false⟩
/-- RD, RA, RB and VL. -/
def shDAB : Shape := ⟨true, true, true, true, false⟩
/-- RD, RA and VL. -/
def shDA : Shape := ⟨true, true, false, true, false⟩
/-- RA and VL. -/
def shA : Shape := ⟨false, true, false, true, false⟩
/-- RD and VL. -/
def shD : Shape := ⟨true, false, false, true, false⟩
/-- RD, VL and S. -/
def shDS : Shape := ⟨true, false, false, true, true⟩

/-- The row of R80 for an OP value: the fields it uses, and the command they make. -/
def opRow (op : Nat) : Option (Shape × (Fields → Instr)) :=
  match op with
  | 0x00 => some (shNone, fun _ => .nop)
  | 0x01 => some (shNone, fun _ => .smont)
  | 0x02 => some (shNone, fun _ => .sred)
  | 0x03 => some (shNone, fun _ => .scaddq)
  | 0x04 => some (shNone, fun _ => .sp2r)
  | 0x05 => some (shNone, fun _ => .sdecomp)
  | 0x06 => some (shNone, fun _ => .smkhint)
  | 0x07 => some (shNone, fun _ => .susehint)
  | 0x10 => some (shDAB, fun f => .padd f.rd f.ra f.rb f.vl)
  | 0x11 => some (shDAB, fun f => .psub f.rd f.ra f.rb f.vl)
  | 0x12 => some (shDA, fun f => .pshl f.rd f.ra f.vl)
  | 0x13 => some (shDA, fun f => .pred f.rd f.ra f.vl)
  | 0x14 => some (shDA, fun f => .pcaddq f.rd f.ra f.vl)
  | 0x15 => some (shDAB, fun f => .ppwm f.rd f.ra f.rb f.vl)
  | 0x16 => some (shDAB, fun f => .ppwms f.rd f.ra f.rb f.vl)
  | 0x17 => some (shDAB, fun f => .ppwacc f.rd f.ra f.rb f.vl)
  | 0x18 => some (shA, fun f => .pchknorm f.ra f.vl)
  | 0x19 => some (shDAB, fun f => .pp2r f.rd f.ra f.rb f.vl)
  | 0x1A => some (shDAB, fun f => .pdecomp f.rd f.ra f.rb f.vl)
  | 0x1B => some (shDAB, fun f => .pmkhint f.rd f.ra f.rb f.vl)
  | 0x1C => some (shDAB, fun f => .pusehint f.rd f.ra f.rb f.vl)
  | 0x20 => some (shDA, fun f => .pntt f.rd f.ra f.vl)
  | 0x21 => some (shDA, fun f => .pinvntt f.rd f.ra f.vl)
  | 0x28 => some (⟨true, true, false, false, true⟩, fun f => .matvec f.rd f.ra f.sl)
  | 0x30 => some (shDS, fun f => .sunif f.rd f.vl f.sl)
  | 0x31 => some (shDS, fun f => .seta f.rd f.vl f.sl)
  | 0x32 => some (shDS, fun f => .sgamma1 f.rd f.vl f.sl)
  | 0x33 => some (⟨true, false, false, false, true⟩, fun f => .schal f.rd f.sl)
  | 0x40 => some (shA, fun f => .pkt1 f.ra f.vl)
  | 0x41 => some (shD, fun f => .upkt1 f.rd f.vl)
  | 0x42 => some (shA, fun f => .pkt0 f.ra f.vl)
  | 0x43 => some (shD, fun f => .upkt0 f.rd f.vl)
  | 0x44 => some (shA, fun f => .pketa f.ra f.vl)
  | 0x45 => some (shD, fun f => .upketa f.rd f.vl)
  | 0x46 => some (shA, fun f => .pkz f.ra f.vl)
  | 0x47 => some (shD, fun f => .upkz f.rd f.vl)
  | 0x48 => some (shA, fun f => .pkw1 f.ra f.vl)
  | 0x4A => some (⟨false, true, false, false, false⟩, fun f => .pkhint f.ra)
  | 0x4B => some (⟨true, false, false, false, false⟩, fun f => .upkhint f.rd)
  | 0x50 => some (⟨false, true, false, false, false⟩, fun f => .packpk f.ra)
  | 0x51 => some (⟨true, false, false, false, false⟩, fun f => .unpackpk f.rd)
  | 0x52 => some (⟨true, true, true, false, false⟩, fun f => .packsk f.rd f.ra f.rb)
  | 0x53 => some (⟨true, true, true, false, false⟩, fun f => .unpacksk f.rd f.ra f.rb)
  | 0x54 => some (⟨false, true, true, false, false⟩, fun f => .packsig f.ra f.rb)
  | 0x55 => some (⟨false, true, true, false, false⟩, fun f => .unpacksig f.ra f.rb)
  | 0x60 => some (shD, fun f => .ldpoly f.rd f.vl)
  | 0x61 => some (shA, fun f => .stpoly f.ra f.vl)
  | 0x62 => some (shD, fun f => .pzero f.rd f.vl)
  | 0x63 => some (shNone, fun _ => .bzero)
  | 0x64 => some (shNone, fun _ => .wipe)
  | _ => none

/-- A field is 0 unless its row uses it (R75). -/
def unusedZero (used : Bool) (field : Nat) : Bool := used || field == 0

/-- RSV is 0, every field the row does not use is 0, and VL and S are 0 where the row does not take them (R75, R79). -/
def fieldsOk (sh : Shape) (w : Word) : Bool :=
  rsvField w == 0 && unusedZero sh.rd (rdField w) && unusedZero sh.ra (raField w) && unusedZero sh.rb (rbField w)
    && unusedZero sh.vl (vlField w) && unusedZero sh.sl (sField w)

/-- The values of the fields of w; none where VL is the reserved value 3 (R73). -/
def readFields (w : Word) : Option Fields :=
  match vlOfCode (vlField w), seedOfCode (sField w) with
  | some vl, some sl => some ⟨rdField w, raField w, rbField w, vl, sl⟩
  | _, _ => none

/-- Decoding, total on every word (R79): ILLEGAL_OPCODE before RESERVED_FIELD. -/
def decode (w : Word) : Except DecodeError Instr :=
  match opRow (opField w) with
  | none => .error .illegalOpcode
  | some (sh, mk) =>
    if fieldsOk sh w then
      match readFields w with
      | some f => .ok (mk f)
      | none => .error .reservedField
    else .error .reservedField

/-- The instruction the decoder reads from a table word of nbits bits (bit 0 the least significant bit of the one
32-bit word of a command, R78); bits above nbits are 0. -/
def decodeTableWord (nbits w : Nat) : Option Instr :=
  match decode (BitVec.ofNat 32 (w % Nat.pow 2 nbits)) with
  | .ok i => some i
  | .error _ => none

/-! ## The encoder (R70, R80) -/

/-- The VL field of a vector length (R73). -/
def vlCode : VecLen → Nat
  | .one => 0
  | .vecL => 1
  | .vecK => 2

/-- The S field of a seed length (R74). -/
def seedCode : SeedLen → Nat
  | .s32 => 0
  | .s64 => 1

/-- The word with the given fields, RSV = 0 (R70). -/
def packWord (op rd ra rb vl sl : Nat) : Word :=
  BitVec.ofNat 32 (op + rd * 256 + ra * 16384 + rb * 1048576 + vl * 67108864 + sl * 268435456)

/-- The command word of an instruction (R70, R80). -/
def encode : Instr → Word
  | .nop => packWord 0x00 0 0 0 0 0
  | .smont => packWord 0x01 0 0 0 0 0
  | .sred => packWord 0x02 0 0 0 0 0
  | .scaddq => packWord 0x03 0 0 0 0 0
  | .sp2r => packWord 0x04 0 0 0 0 0
  | .sdecomp => packWord 0x05 0 0 0 0 0
  | .smkhint => packWord 0x06 0 0 0 0 0
  | .susehint => packWord 0x07 0 0 0 0 0
  | .padd rd ra rb vl => packWord 0x10 rd ra rb (vlCode vl) 0
  | .psub rd ra rb vl => packWord 0x11 rd ra rb (vlCode vl) 0
  | .pshl rd ra vl => packWord 0x12 rd ra 0 (vlCode vl) 0
  | .pred rd ra vl => packWord 0x13 rd ra 0 (vlCode vl) 0
  | .pcaddq rd ra vl => packWord 0x14 rd ra 0 (vlCode vl) 0
  | .ppwm rd ra rb vl => packWord 0x15 rd ra rb (vlCode vl) 0
  | .ppwms rd ra rb vl => packWord 0x16 rd ra rb (vlCode vl) 0
  | .ppwacc rd ra rb vl => packWord 0x17 rd ra rb (vlCode vl) 0
  | .pchknorm ra vl => packWord 0x18 0 ra 0 (vlCode vl) 0
  | .pp2r rd ra rb vl => packWord 0x19 rd ra rb (vlCode vl) 0
  | .pdecomp rd ra rb vl => packWord 0x1A rd ra rb (vlCode vl) 0
  | .pmkhint rd ra rb vl => packWord 0x1B rd ra rb (vlCode vl) 0
  | .pusehint rd ra rb vl => packWord 0x1C rd ra rb (vlCode vl) 0
  | .pntt rd ra vl => packWord 0x20 rd ra 0 (vlCode vl) 0
  | .pinvntt rd ra vl => packWord 0x21 rd ra 0 (vlCode vl) 0
  | .matvec rd ra sl => packWord 0x28 rd ra 0 0 (seedCode sl)
  | .sunif rd vl sl => packWord 0x30 rd 0 0 (vlCode vl) (seedCode sl)
  | .seta rd vl sl => packWord 0x31 rd 0 0 (vlCode vl) (seedCode sl)
  | .sgamma1 rd vl sl => packWord 0x32 rd 0 0 (vlCode vl) (seedCode sl)
  | .schal rd sl => packWord 0x33 rd 0 0 0 (seedCode sl)
  | .pkt1 ra vl => packWord 0x40 0 ra 0 (vlCode vl) 0
  | .upkt1 rd vl => packWord 0x41 rd 0 0 (vlCode vl) 0
  | .pkt0 ra vl => packWord 0x42 0 ra 0 (vlCode vl) 0
  | .upkt0 rd vl => packWord 0x43 rd 0 0 (vlCode vl) 0
  | .pketa ra vl => packWord 0x44 0 ra 0 (vlCode vl) 0
  | .upketa rd vl => packWord 0x45 rd 0 0 (vlCode vl) 0
  | .pkz ra vl => packWord 0x46 0 ra 0 (vlCode vl) 0
  | .upkz rd vl => packWord 0x47 rd 0 0 (vlCode vl) 0
  | .pkw1 ra vl => packWord 0x48 0 ra 0 (vlCode vl) 0
  | .pkhint ra => packWord 0x4A 0 ra 0 0 0
  | .upkhint rd => packWord 0x4B rd 0 0 0 0
  | .packpk ra => packWord 0x50 0 ra 0 0 0
  | .unpackpk rd => packWord 0x51 rd 0 0 0 0
  | .packsk rd ra rb => packWord 0x52 rd ra rb 0 0
  | .unpacksk rd ra rb => packWord 0x53 rd ra rb 0 0
  | .packsig ra rb => packWord 0x54 0 ra rb 0 0
  | .unpacksig ra rb => packWord 0x55 0 ra rb 0 0
  | .ldpoly rd vl => packWord 0x60 rd 0 0 (vlCode vl) 0
  | .stpoly ra vl => packWord 0x61 0 ra 0 (vlCode vl) 0
  | .pzero rd vl => packWord 0x62 rd 0 0 (vlCode vl) 0
  | .bzero => packWord 0x63 0 0 0 0 0
  | .wipe => packWord 0x64 0 0 0 0 0

end Sys2Proof
end

