-- ==== Sys2Proof/Machine/Abort.lean ====
section
/-! DEFINITION. CTRL.ABORT: what an aborted command leaves (spec/60_exceptions.md R312). -/

namespace Sys2Proof.Machine

/-- The command is a hint packer whose source weight is above OMEGA: it would end with HINT_OVERFLOW and write nothing
(R244, R267, R303). -/
def hintTooHeavy (i : Instr) (s : State) : Bool :=
  match i with
  | .pkhint ra => heavy ra
  | .packsig _ rb => heavy rb
  | _ => false
where
  /-- The K slots from x hold a hint vector of weight above OMEGA. -/
  heavy (x : Nat) : Bool :=
    match s.pm.getRange x Config.vecK with
    | some h => decide (weightOf h > Config.omega)
    | none => false

/-- Every slot and every BM byte the running command would write (R312): its destinations, or nothing where it would
end with an error first (notes/assumptions/10.md). -/
def wouldWrite (i : Instr) (s : State) : Operands :=
  let o := operandsOf i s.params s.argv
  if (validate s.params o).isSome || hintTooHeavy i s then {} else { slotDst := o.slotDst, bmDst := o.bmDst }

/-- The destinations become UNSPECIFIED: unwritten (R44, R312). -/
def State.clearAll (s : State) (o : Operands) : State :=
  o.bmDst.foldl (fun s r => s.clearBytes r.start r.len) (o.slotDst.foldl (fun s r => s.clearSlots r.start r.len) s)

/-- Abort the running command (R312): its destinations UNSPECIFIED, the XOF session dropped, ERR with ABORTED. A word
that is no command would write nothing. The MATVEC buffers stay as they were (notes/assumptions/8.md). -/
def State.abort (s : State) : State :=
  match decode s.cmd with
  | .ok i => (s.clearAll (wouldWrite i s)).endWithError .aborted
  | .error _ => s.endWithError .aborted

end Sys2Proof.Machine
end

