-- ==== Sys2Proof/Machine/HostAgent.lean ====
section
/-! DEFINITION. The host agent: the window map and its access rules (spec/20_memory.md R53 to R59), what a host access
does to the control and status registers (spec/10_state.md R26 to R34), and the abstract host of spec/30_encoding.md
R85. -/

namespace Sys2Proof.Machine

/-! ## The window (R53 to R55) -/

/-- The bytes of an access. -/
def widthBytes : Width → Nat
  | .w8 => 1
  | .w16 => 2
  | .w32 => 4

/-- What a window access reaches. -/
inductive Target where
  | csr
  | bm (a : Nat)
  | busError
  | outside
deriving DecidableEq, Repr

/-- The window map (R53) with its widths and alignments (R54, R55): a control register by an aligned 32-bit access, a BM
byte range by a naturally aligned access, otherwise a bus error; at or above 0x4000 + BM_SIZE the block decodes
nothing. Width, alignment and range come before BUSY (notes/assumptions/15.md). -/
def windowTarget (p : Config.Params) (w : Width) (off : Nat) : Target :=
  if off < 0x40 then
    if w = .w32 ∧ off % 4 = 0 then .csr else .busError
  else if off < 0x4000 then .busError
  else if off < 0x4000 + p.bmSize then
    if off % widthBytes w = 0 ∧ off + widthBytes w ≤ 0x4000 + p.bmSize then .bm (off - 0x4000) else .busError
  else .outside

/-! ## Control and status registers (R26 to R34) -/

/-- A read of RESULT or RESULT1: UNSPECIFIED while BUSY = 1, hence a free value (R33); otherwise the register. -/
def resultRead (s : State) (v : Word) : Word × State :=
  if s.busy then (Config.freeResult s.freeCount, { s with freeCount := s.freeCount + 1 }) else (v, s)

/-- A CSR read at an aligned offset below 0x40: the value, and the state after (a read has no side effect, R57, but for
the model's count of free values). Reserved offsets read 0. -/
def csrRead (s : State) (off : Nat) : Word × State :=
  match off with
  | 0x00 => (idWord, s)
  | 0x04 => (paramWord s.params, s)
  | 0x08 => (s.cmd, s)
  | 0x0C => (s.statusWord, s)
  | 0x10 => (s.ctrlWord, s)
  | 0x14 => resultRead s s.result
  | 0x18 => resultRead s s.result1
  | 0x20 => (s.args.a0, s)
  | 0x24 => (s.args.a1, s)
  | 0x28 => (s.args.a2, s)
  | 0x2C => (s.args.a3, s)
  | _ => (0, s)

/-- A CMD write: issue while BUSY = 0 (R27); while BUSY = 1 it is ignored and sets OVR (R28). -/
def State.writeCmd (s : State) (v : Word) : State :=
  if s.busy then { s with ovr := true } else s.issue v

/-- A CTRL write (R32): IE takes bit 0, in an aborting write too (notes/assumptions/24.md); bit 1 aborts a running command
and has no effect while BUSY = 0. -/
def State.writeCtrl (s : State) (v : Word) : State :=
  let s' := { s with ie := v.getLsbD 0 }
  if v.getLsbD 1 && s.busy then s'.abort else s'

/-- A CSR write at an aligned offset below 0x40. Writes to ID, PARAM, RESULT, RESULT1 and reserved offsets are
ignored (R26). -/
def csrWrite (s : State) (off : Nat) (v : Word) : State :=
  match off with
  | 0x08 => s.writeCmd v
  | 0x0C => s.writeStatus v
  | 0x10 => s.writeCtrl v
  | 0x20 => { s with args := { s.args with a0 := v } }
  | 0x24 => { s with args := { s.args with a1 := v } }
  | 0x28 => { s with args := { s.args with a2 := v } }
  | 0x2C => { s with args := { s.args with a3 := v } }
  | _ => s

/-! ## The abstract host (R85) -/

/-- The host goes to index t of its program. -/
def State.hostGoto (s : State) (t : Nat) : State := { s with host := { s.host with pc := t } }

/-- The host goes on to its next operation. -/
def State.hostNext (s : State) : State := s.hostGoto (s.host.pc + 1)

/-- A host register takes a value. -/
def State.setHostReg (s : State) (h : Fin 8) (v : Word) : State :=
  { s with host := { s.host with regs := s.host.regs.set h v } }

/-- A host register's value. -/
def State.hostReg (s : State) (h : Fin 8) : Word := s.host.regs[h]

/-- The value a host store writes. -/
def hostVal (s : State) : HostVal → Word
  | .imm v => v
  | .reg h => s.hostReg h

/-- A host load: the value, zero-extended, to a host register (R52, R54, R55, R58, R59). -/
def hostLoad (w : Width) (off : Nat) (h : Fin 8) (s : State) : Result :=
  match windowTarget s.params w off with
  | .csr => .next ((csrRead s off).2.setHostReg h (csrRead s off).1).hostNext
  | .bm a =>
    if s.busy then .refused .bmAccessWhileBusy
    else withBytes s a (widthBytes w) fun bs => .next (s.setHostReg h (BitVec.ofNat 32 (bytesToNat bs))).hostNext
  | .busError => .fault .busError
  | .outside => .refused .outsideWindow

/-- A host store: a CSR write, or the low bytes of the value to BM, least significant first (R51, R55, R58).
DESIGN CHOICE (notes/assumptions/3.md): a store of 8 or 16 bits takes the low bytes of the 32-bit value. -/
def hostStore (w : Width) (off : Nat) (v : Word) (s : State) : Result :=
  match windowTarget s.params w off with
  | .csr => .next (csrWrite s off v).hostNext
  | .bm a =>
    if s.busy then .refused .bmAccessWhileBusy
    else .next (s.writeBytes a (natToBytes (widthBytes w) v.toNat)).hostNext
  | .busError => .fault .busError
  | .outside => .refused .outsideWindow

/-- One operation of the host (R85). HALT stays where it is, and the sum of ADDI wraps modulo 2^32: R85 gives the width of a
register and no rule for either. DESIGN CHOICE (notes/assumptions/3.md). -/
def hostOp (op : HostOp) (s : State) : Result :=
  match op with
  | .load w off h => hostLoad w off h s
  | .store w off v => hostStore w off (hostVal s v) s
  | .li h v => .next (s.setHostReg h v).hostNext
  | .addi h src v => .next (s.setHostReg h (s.hostReg src + v)).hostNext
  | .andi h src v => .next (s.setHostReg h (s.hostReg src &&& v)).hostNext
  | .beqz h t => .next (if s.hostReg h = 0 then s.hostGoto t else s.hostNext)
  | .bnez h t => .next (if s.hostReg h = 0 then s.hostNext else s.hostGoto t)
  | .jump t => .next (s.hostGoto t)
  | .halt => .next s

/-- A turn of the host: its next operation; past the end of its program it does nothing (notes/assumptions/3.md), and
an idle block stays idle (R318, R333). -/
def hostTurn (s : State) : Result :=
  match s.host.prog[s.host.pc]? with
  | none => .next s
  | some op => hostOp op s

/-- The host's run is over: it has reached HALT (R342), or it stands past the end of its program or has none, which R342 does
not name. DESIGN CHOICE for the latter (notes/assumptions/3.md). -/
def State.hostHalted (s : State) : Bool :=
  match s.host.prog[s.host.pc]? with
  | none => true
  | some op => op == .halt

/-! ## The pseudo-instructions of R85 -/

/-- The named control registers (R26). -/
inductive Csr where
  | id | param | cmd | status | ctrl | result | result1 | arg0 | arg1 | arg2 | arg3
deriving DecidableEq, Repr

/-- A register's offset from CORE_BASE (R26). -/
def csrOffset : Csr → Nat
  | .id => 0x00
  | .param => 0x04
  | .cmd => 0x08
  | .status => 0x0C
  | .ctrl => 0x10
  | .result => 0x14
  | .result1 => 0x18
  | .arg0 => 0x20
  | .arg1 => 0x24
  | .arg2 => 0x28
  | .arg3 => 0x2C

/-- `CSRW NAME, v` (R85). -/
def csrw (r : Csr) (v : HostVal) : HostOp := .store .w32 (csrOffset r) v
/-- `CSRR hX, NAME` (R85). -/
def csrr (h : Fin 8) (r : Csr) : HostOp := .load .w32 (csrOffset r) h
/-- `BMW8 a, b0, b1, ...` (R85). -/
def bmw8 (a : Nat) : List Byte → List HostOp
  | [] => []
  | b :: bs => .store .w8 (0x4000 + a) (.imm (b.setWidth 32)) :: bmw8 (a + 1) bs
/-- `BMW32 a, v` (R85). -/
def bmw32 (a : Nat) (v : HostVal) : HostOp := .store .w32 (0x4000 + a) v
/-- `BMR8 hX, a` (R85). -/
def bmr8 (h : Fin 8) (a : Nat) : HostOp := .load .w8 (0x4000 + a) h
/-- `BMR32 hX, a` (R85). -/
def bmr32 (h : Fin 8) (a : Nat) : HostOp := .load .w32 (0x4000 + a) h
/-- `ISSUE cmd` (R85). -/
def hostIssue (i : Instr) : HostOp := csrw .cmd (.imm (encode i))
/-- `WAIT`, standing at index t of the program (R85): poll STATUS until BUSY = 0. -/
def hostWait (t : Nat) : List HostOp := [csrr 7 .status, .andi 7 7 1, .bnez 7 t]
/-- `RUN cmd`, standing at index t of the program, with the index of `error` (R85). -/
def hostRun (t error : Nat) (i : Instr) : List HostOp :=
  hostIssue i :: hostWait (t + 1) ++ [csrr 7 .status, .andi 7 7 4, .bnez 7 error]

end Sys2Proof.Machine
end

