-- ==== Sys2Proof/Machine/Sequencer.lean ====
section
/-! DEFINITION. The block's sequencer (spec/10_state.md R36, R38; spec/30_encoding.md R79; spec/60_exceptions.md R303):
one turn runs the latched command. -/

namespace Sys2Proof.Machine

/-- The error code of a word that is no command (R300). -/
def decodeErrCode : DecodeError → ErrCode
  | .illegalOpcode => .illegalOpcode
  | .reservedField => .reservedField

/-- A turn of the sequencer. While SEQ = IDLE nothing happens: only a CMD write starts work (R318). In RUN the latched
word is decoded; a word that is no command completes with its error and no other effect (R71, R79, R303), and a command
runs (R341). -/
def sequencerTurn (s : State) : Result :=
  match s.seq with
  | .idle => .next s
  | .run =>
    match decode s.cmd with
    | .error e => .next (s.endWithError (decodeErrCode e))
    | .ok i => exec i s

/-- The agent that moves next: the schedule's next turn, or, when it is empty, the sequencer while BUSY = 1 and the host
otherwise (notes/assumptions/2.md). -/
def nextTurn (s : State) : Turn :=
  match s.turns with
  | t :: _ => t
  | [] => if s.busy then .sequencer else .host

/-- The state with the schedule's next turn taken. -/
def State.popTurn (s : State) : State := { s with turns := s.turns.tail }

/-- The turn of an agent. -/
def takeTurn (t : Turn) (s : State) : Result :=
  match t with
  | .host => hostTurn s
  | .sequencer => sequencerTurn s
  | .reset => .next s.warmReset

/-- The state in which the word w has been issued and the sequencer moves next. -/
def State.latchAndRun (s : State) (w : Word) : State := { s.issue w with turns := .sequencer :: s.turns }

end Sys2Proof.Machine
end

