-- ==== Sys2Proof/Machine/Step.lean ====
section
/-! DEFINITION. One step of the machine: one turn of one agent (spec/00_scope.md R19; spec/60_exceptions.md R311). -/

namespace Sys2Proof.Machine

/-- One step: the next agent takes its turn. -/
def step (s : State) : Host.Outcome State Fault Refusal := takeTurn (nextTurn s) s.popTurn

/-- s with the word w of nbits bits issued to CMD (its arguments latched, BUSY set), and the sequencer's turn next: the
block fetches nothing from memory (R36, R65), a command comes by a CMD write (R27; notes/assumptions/4.md). -/
def State.withFetchWord (s : State) (nbits w : Nat) : State :=
  s.latchAndRun (BitVec.ofNat 32 (w % Nat.pow 2 nbits))

end Sys2Proof.Machine
end

