-- ==== Sys2Proof/Safety.lean ====
section
/-! DEFINITION. The invariant of the machine, and what counts as a safe run. -/

namespace Sys2Proof.Machine

/-- The open session's message begins with the running command's seed, as BM still holds it at the command's one byte source
(R67, R201, R203). -/
def State.SeedCopied (s : State) (x : XofSession) : Prop :=
  ∃ i r, decode s.cmd = .ok i ∧ (operandsOf i s.params s.argv).bmSrc = [r] ∧
    s.bm.getRange r.start r.len = some (x.msg.take r.len)

/-- What holds in every state a run reaches, each clause a rule of the spec. -/
structure State.Inv (s : State) : Prop where
  /-- The parameters are a block's (R10, R34). -/
  paramsOk : s.params.Ok
  /-- PM holds slots 0 to NSLOT-1 at most once each, in canonical form (R20). -/
  pmWf : PolyMem.wf s.params s.pm
  /-- BM holds bytes 0 to BM_SIZE-1 at most once each, in canonical form (R24). -/
  bmWf : Memory.wf s.params s.bm
  /-- ERRCODE holds an error's code while ERR = 1 and 0 while ERR = 0 (R31). -/
  errCode : s.err = true ↔ s.errcode ≠ .noError
  /-- While a command runs, DONE, ERR and ERRCODE are as its issue left them, 0 (R27, R29). -/
  runClear : s.seq = .run → s.done = false ∧ s.err = false
  /-- While a command runs its arguments are latched (R27, R38). -/
  runLatched : s.seq = .run → s.latch.isSome = true
  /-- No XOF session outlives its command (R39). -/
  idleClosed : s.seq = .idle → s.xof = none
  /-- A command that goes on finds its seed in the session, and it is the seed in BM (R67). -/
  seedCopied : ∀ x, s.xof = some x → s.SeedCopied x

/-- t is reached from s by some number of steps, all answering a next state. -/
inductive Reaches : State → State → Prop where
  | refl (s : State) : Reaches s s
  | tail {s t u : State} (h : Reaches s t) (hs : step t = .next u) : Reaches s u

/-- A state of a run that can go on: its next step is neither a fault nor a refusal. -/
def safeState (s : State) : Prop := ∃ t, step s = .next t

/-- The end of a run of a host program (R342): the host has halted and BUSY = 0. -/
def runEnded (s : State) : Bool := s.hostHalted && !s.busy

end Sys2Proof.Machine
end

