-- ==== Sys2Proof/Certificates/Slice0/Obligations.lean ====
section
/-! DEFINITION. The statements about the model. First the vocabulary they are written in: the spec's formulas and loops,
written from its rules over plain integers, natural numbers and lists, apart from the model's own definitions; then one
proposition for each statement. -/

namespace Sys2Proof.Spec

open Sys2Proof.Machine

/-! ## Integers (R12) -/

/-- `low32(x)`: the y in [-2^31, 2^31) with y ≡ x (mod 2^32) (R12). -/
def low (x : Int) : Int := x.bmod 4294967296

/-- The register word of an integer: `u32(x)` (R12). -/
def word (x : Int) : Word := BitVec.ofInt 32 x

/-- Q (R8). -/
abbrev q : Int := 8380417

/-- `montgomery_reduce(a)` (R100). -/
def mont (a : Int) : Int := low ((a - low (a * 58728449) * q) / 4294967296)

/-- `reduce32(a)` (R101). -/
def reduce (a : Int) : Int := low (a - (a + 4194304) / 8388608 * q)

/-- `caddq(a)` (R102). -/
def addQ (a : Int) : Int := low (if a < 0 then a + q else a)

/-- a1 of `power2round(a)` (R120). -/
def roundHigh (a : Int) : Int := low ((a + 4095) / 8192)

/-- a0 of `power2round(a)` (R120). -/
def roundLow (a : Int) : Int := low (a - (a + 4095) / 8192 * 8192)

/-- a1 of `decompose(a)` (R121). -/
def bucket (a : Int) : Int := ((a + 127) / 128 * 1025 + 2097152) / 4194304 % 16

/-- a0 of `decompose(a)` (R121): 523776 is 2·GAMMA2 and 4190208 is (Q-1)/2. -/
def offset (a : Int) : Int :=
  low (if a - bucket a * 523776 > 4190208 then a - bucket a * 523776 - q else a - bucket a * 523776)

/-- `make_hint(a0, a1)` (R122): 261888 is GAMMA2. -/
def hintBit (a0 a1 : Int) : Int := if a0 > 261888 ∨ a0 < -261888 ∨ (a0 = -261888 ∧ a1 ≠ 0) then 1 else 0

/-- `use_hint(a, hint)` (R123). -/
def hinted (a hint : Int) : Int :=
  if hint = 0 then bucket a else if offset a > 0 then (bucket a + 1) % 16 else (bucket a - 1) % 16

/-! ## Memories and vectors (R13, R14) -/

/-- Coefficient j of polynomial k of a vector. -/
def entry (ps : List Machine.Poly) (k j : Nat) : Int :=
  match ps[k]? with
  | some p => p.coeff j
  | none => 0

/-- PM is canonical and its slots x, x+1, ... hold the polynomials ps. -/
def SlotsHold (s : State) (x : Nat) (ps : List Machine.Poly) : Prop :=
  PolyMem.wf s.params s.pm ∧ ∀ k, k < ps.length → s.pm.get (x + k) = ps[k]?

/-- BM is canonical and its bytes a, a+1, ... hold the byte string bs. -/
def BytesHold (s : State) (a : Nat) (bs : List Byte) : Prop :=
  Memory.wf s.params s.bm ∧ ∀ k, k < bs.length → s.bm.get (a + k) = bs[k]?

/-- The command's seed: BM holds it at a where no session is open (R203), and where one is open it begins the session's
copied message (R67). -/
def SeedHeld (s : State) (a : Nat) (seed : List Byte) : Prop :=
  (s.xof = none ∧ BytesHold s a seed) ∨ ∃ x, s.xof = some x ∧ x.msg.take seed.length = seed

/-- From s to t the slots x, x+1, ... take the polynomials ps, and every other slot is as it was. -/
def SlotsBecome (s t : State) (x : Nat) (ps : List Machine.Poly) : Prop :=
  ∀ y, t.pm.get y = if x ≤ y ∧ y < x + ps.length then ps[y - x]? else s.pm.get y

/-- From s to t the bytes a, a+1, ... take the byte string bs, and every other byte is as it was. -/
def BytesBecome (s t : State) (a : Nat) (bs : List Byte) : Prop :=
  ∀ b, t.bm.get b = if a ≤ b ∧ b < a + bs.length then bs[b - a]? else s.bm.get b

/-- Every slot reads as before. -/
def SlotsSame (s t : State) : Prop := ∀ y, t.pm.get y = s.pm.get y

/-- Every byte reads as before. -/
def BytesSame (s t : State) : Prop := ∀ b, t.bm.get b = s.bm.get b

/-! ## Completion (R29, R33) -/

/-- s completed with RESULT = r and RESULT1 = r1 and nothing else. -/
def doneWith (s : State) (r r1 : Word) : State :=
  { s with seq := .idle, done := true, result := r, result1 := r1, xof := none }

/-- s ended with an error and nothing else (R29, R300, R303). -/
def endedWith (s : State) (e : ErrCode) : State :=
  { s with seq := .idle, done := true, err := true, errcode := e, result := 0, result1 := 0, xof := none }

/-- t is s completed with RESULT = r and RESULT1 = r1, but for the contents of PM and BM: every register, the latch, the
MATVEC buffers, the host and the schedule are as they were. -/
def Completes (s t : State) (r r1 : Word) : Prop := t = { doneWith s r r1 with pm := t.pm, bm := t.bm }

/-- Command i completes from s with RESULT = r and RESULT1 = 0; it writes the slots rd .. rd+n-1, coefficient j of slot
rd + k with the value `val k j`, and no other slot and no byte. -/
def WritesSlots (i : Instr) (s : State) (rd n : Nat) (r : Word) (val : Nat → Nat → Int) : Prop :=
  ∃ t ps, exec i s = .next t ∧ Completes s t r 0 ∧ BytesSame s t ∧ ps.length = n ∧ SlotsBecome s t rd ps ∧
    ∀ k j, k < n → j < 256 → entry ps k j = val k j

/-- Command i completes from s with RESULT = r and RESULT1 = 0; it writes the byte string bs at a, and no other byte and
no slot. -/
def WritesBytes (i : Instr) (s : State) (a : Nat) (r : Word) (bs : List Byte) : Prop :=
  ∃ t, exec i s = .next t ∧ Completes s t r 0 ∧ SlotsSame s t ∧ BytesBecome s t a bs

/-! ## Ranges (R301, R302, R304) -/

/-- [x, x+n) and [y, y+m) do not meet. -/
def Apart (x n y m : Nat) : Prop := x + n ≤ y ∨ y + m ≤ x

/-- [x, x+n) and [y, y+n) are the same range or do not meet. -/
def SameOrApart (x y n : Nat) : Prop := x = y ∨ Apart x n y n

/-- The slot ranges a command writes, base and count (R80). -/
def slotsOut (p : Config.Params) : Instr → List (Nat × Nat)
  | .nop | .smont | .sred | .scaddq | .sp2r | .sdecomp | .smkhint | .susehint | .bzero => []
  | .padd rd _ _ vl | .psub rd _ _ vl | .ppwm rd _ _ vl | .ppwms rd _ _ vl | .pmkhint rd _ _ vl
  | .pusehint rd _ _ vl => [(rd, vl.count)]
  | .pshl rd _ vl | .pred rd _ vl | .pcaddq rd _ vl | .pntt rd _ vl | .pinvntt rd _ vl => [(rd, vl.count)]
  | .ppwacc rd _ _ _ => [(rd, 1)]
  | .pp2r rd _ rb vl | .pdecomp rd _ rb vl => [(rd, vl.count), (rb, vl.count)]
  | .matvec rd _ _ => [(rd, 8)]
  | .sunif rd vl _ | .seta rd vl _ | .sgamma1 rd vl _ => [(rd, vl.count)]
  | .schal rd _ => [(rd, 1)]
  | .upkt1 rd vl | .upkt0 rd vl | .upketa rd vl | .upkz rd vl | .ldpoly rd vl | .pzero rd vl => [(rd, vl.count)]
  | .upkhint rd | .unpackpk rd => [(rd, 8)]
  | .unpacksk rd ra rb => [(rd, 8), (ra, 7), (rb, 8)]
  | .unpacksig ra rb => [(ra, 7), (rb, 8)]
  | .wipe => [(0, p.nslot)]
  | .pchknorm _ _ | .pkt1 _ _ | .pkt0 _ _ | .pketa _ _ | .pkz _ _ | .pkw1 _ _ | .pkhint _ | .packpk _ | .packsk _ _ _
  | .packsig _ _ | .stpoly _ _ => []

/-- The slot ranges a command reads, base and count (R80). -/
def slotsIn : Instr → List (Nat × Nat)
  | .nop | .smont | .sred | .scaddq | .sp2r | .sdecomp | .smkhint | .susehint | .bzero | .wipe => []
  | .padd _ ra rb vl | .psub _ ra rb vl | .ppwm _ ra rb vl | .ppwacc _ ra rb vl | .pmkhint _ ra rb vl
  | .pusehint _ ra rb vl => [(ra, vl.count), (rb, vl.count)]
  | .ppwms _ ra rb vl => [(ra, 1), (rb, vl.count)]
  | .pshl _ ra vl | .pred _ ra vl | .pcaddq _ ra vl | .pntt _ ra vl | .pinvntt _ ra vl | .pp2r _ ra _ vl
  | .pdecomp _ ra _ vl | .pchknorm ra vl | .pkt1 ra vl | .pkt0 ra vl | .pketa ra vl | .pkz ra vl | .pkw1 ra vl
  | .stpoly ra vl => [(ra, vl.count)]
  | .matvec _ ra _ => [(ra, 7)]
  | .pkhint ra | .packpk ra => [(ra, 8)]
  | .packsk rd ra rb => [(rd, 8), (ra, 7), (rb, 8)]
  | .packsig ra rb => [(ra, 7), (rb, 8)]
  | .sunif _ _ _ | .seta _ _ _ | .sgamma1 _ _ _ | .schal _ _ | .upkt1 _ _ | .upkt0 _ _ | .upketa _ _ | .upkz _ _
  | .ldpoly _ _ | .pzero _ _ | .upkhint _ | .unpackpk _ | .unpacksk _ _ _ | .unpacksig _ _ => []

/-- The byte ranges a command writes, start and length, from its latched arguments (R80, R231, R260). -/
def bytesOut (p : Config.Params) (v : Args) : Instr → List (Nat × Nat)
  | .pkt1 _ vl => [(v.a0.toNat, vl.count * 320)]
  | .pkt0 _ vl => [(v.a0.toNat, vl.count * 416)]
  | .pketa _ vl => [(v.a0.toNat, vl.count * 96)]
  | .pkz _ vl => [(v.a0.toNat, vl.count * 640)]
  | .pkw1 _ vl => [(v.a0.toNat, vl.count * 128)]
  | .stpoly _ vl => [(v.a0.toNat, vl.count * 1024)]
  | .pkhint _ => [(v.a0.toNat, 83)]
  | .packpk _ => [(v.a0.toNat, 2592)]
  | .packsk _ _ _ => [(v.a0.toNat, 4832 + p.trBytes)]
  | .packsig _ _ => [(v.a0.toNat, 4595)]
  | .unpackpk _ | .unpacksig _ _ => [(v.a1.toNat, 32)]
  | .unpacksk _ _ _ => [(v.a1.toNat, 32), (v.a2.toNat, 32), (v.a3.toNat, p.trBytes)]
  | .bzero => [(v.a0.toNat, v.a1.toNat)]
  | .wipe => [(0, p.bmSize)]
  | .nop | .smont | .sred | .scaddq | .sp2r | .sdecomp | .smkhint | .susehint => []
  | .padd _ _ _ _ | .psub _ _ _ _ | .pshl _ _ _ | .pred _ _ _ | .pcaddq _ _ _ | .ppwm _ _ _ _ | .ppwms _ _ _ _
  | .ppwacc _ _ _ _ | .pchknorm _ _ | .pp2r _ _ _ _ | .pdecomp _ _ _ _ | .pmkhint _ _ _ _ | .pusehint _ _ _ _
  | .pntt _ _ _ | .pinvntt _ _ _ | .matvec _ _ _ | .sunif _ _ _ | .seta _ _ _ | .sgamma1 _ _ _ | .schal _ _
  | .upkt1 _ _ | .upkt0 _ _ | .upketa _ _ | .upkz _ _ | .ldpoly _ _ | .upkhint _ | .pzero _ _ => []

/-- The byte ranges a command reads, start and length, from its latched arguments (R80, R203, R231, R260). -/
def bytesIn (p : Config.Params) (v : Args) : Instr → List (Nat × Nat)
  | .matvec _ _ sl | .sunif _ _ sl | .seta _ _ sl | .sgamma1 _ _ sl | .schal _ sl => [(v.a0.toNat, sl.bytes)]
  | .upkt1 _ vl => [(v.a0.toNat, vl.count * 320)]
  | .upkt0 _ vl => [(v.a0.toNat, vl.count * 416)]
  | .upketa _ vl => [(v.a0.toNat, vl.count * 96)]
  | .upkz _ vl => [(v.a0.toNat, vl.count * 640)]
  | .ldpoly _ vl => [(v.a0.toNat, vl.count * 1024)]
  | .upkhint _ => [(v.a0.toNat, 83)]
  | .packpk _ | .packsig _ _ => [(v.a1.toNat, 32)]
  | .packsk _ _ _ => [(v.a1.toNat, 32), (v.a2.toNat, 32), (v.a3.toNat, p.trBytes)]
  | .unpackpk _ => [(v.a0.toNat, 2592)]
  | .unpacksk _ _ _ => [(v.a0.toNat, 4832 + p.trBytes)]
  | .unpacksig _ _ => [(v.a0.toNat, 4595)]
  | .nop | .smont | .sred | .scaddq | .sp2r | .sdecomp | .smkhint | .susehint | .bzero | .wipe => []
  | .padd _ _ _ _ | .psub _ _ _ _ | .pshl _ _ _ | .pred _ _ _ | .pcaddq _ _ _ | .ppwm _ _ _ _ | .ppwms _ _ _ _
  | .ppwacc _ _ _ _ | .pchknorm _ _ | .pp2r _ _ _ _ | .pdecomp _ _ _ _ | .pmkhint _ _ _ _ | .pusehint _ _ _ _
  | .pntt _ _ _ | .pinvntt _ _ _ | .pkt1 _ _ | .pkt0 _ _ | .pketa _ _ | .pkz _ _ | .pkw1 _ _ | .stpoly _ _
  | .pkhint _ | .pzero _ _ => []

/-- Every slot range of the command ends within the NSLOT slots (R301). -/
def SlotsInRange (p : Config.Params) (i : Instr) : Prop := ∀ r ∈ slotsOut p i ++ slotsIn i, r.1 + r.2 ≤ p.nslot

/-- Every byte range of the command ends within the BM_SIZE bytes (R302). -/
def BytesInRange (p : Config.Params) (v : Args) (i : Instr) : Prop :=
  ∀ r ∈ bytesOut p v i ++ bytesIn p v i, r.1 + r.2 ≤ p.bmSize

/-- Slots x to x+n-1 exist (R22, R301). -/
abbrev SlotsFit (s : State) (x n : Nat) : Prop := x + n ≤ s.params.nslot

/-- Bytes a to a+n-1 exist (R302). -/
abbrev BytesFit (s : State) (a n : Nat) : Prop := a + n ≤ s.params.bmSize

/-- Two ranges intersect (R304). -/
def Meets (x y : Nat × Nat) : Prop := x.1 < y.1 + y.2 ∧ y.1 < x.1 + x.2

/-- The command breaks (a), (b) or (c) of R304. -/
def Overlaps (p : Config.Params) (v : Args) (i : Instr) : Prop :=
  (∃ d ∈ slotsOut p i, ∃ x ∈ slotsIn i, Meets d x ∧ d ≠ x) ∨
  ¬ (slotsOut p i).Pairwise (fun x y => ¬ Meets x y) ∨
  (∃ d ∈ bytesOut p v i, ∃ x ∈ bytesIn p v i, Meets d x) ∨
  ¬ (bytesOut p v i).Pairwise (fun x y => ¬ Meets x y)

/-- The command passes every check of R303 that follows decoding. -/
def Passes (p : Config.Params) (v : Args) (i : Instr) : Prop :=
  SlotsInRange p i ∧ BytesInRange p v i ∧ ¬ Overlaps p v i

/-- The commands that R304 says never report OVERLAP: the samplers, PZERO, BZERO, WIPE, NOP, PCHKNORM, the scalar
commands, and the commands with one operand in PM and the other in BM. -/
def neverOverlaps : Instr → Bool
  | .nop | .smont | .sred | .scaddq | .sp2r | .sdecomp | .smkhint | .susehint | .pchknorm _ _ | .sunif _ _ _
  | .seta _ _ _ | .sgamma1 _ _ _ | .schal _ _ | .pkt1 _ _ | .upkt1 _ _ | .pkt0 _ _ | .upkt0 _ _ | .pketa _ _
  | .upketa _ _ | .pkz _ _ | .upkz _ _ | .pkw1 _ _ | .pkhint _ | .upkhint _ | .ldpoly _ _ | .stpoly _ _ | .pzero _ _
  | .bzero | .wipe => true
  | _ => false

/-- The rejection samplers and MATVEC: the commands whose loops have no bound (R218). -/
def isSampler : Instr → Bool
  | .matvec _ _ _ | .sunif _ _ _ | .seta _ _ _ | .schal _ _ => true
  | _ => false

/-! ## Byte strings and packed fields (R51, R230) -/

/-- The number a byte string holds as a little-endian integer (R51). -/
def value : List Byte → Nat
  | [] => 0
  | b :: bs => b.toNat + 256 * value bs

/-- Field j, w bits wide, of a byte string: bits w·j to w·j + w - 1 of its little-endian integer (R230). -/
def field (w : Nat) (bs : List Byte) (j : Nat) : Nat := value bs / 2 ^ (w * j) % 2 ^ w

/-- Bytes [a, a+n) of a byte string. -/
def slice (bs : List Byte) (a n : Nat) : List Byte := (bs.drop a).take n

/-- bs is n polynomials packed at w bits (R230): polynomial k in bytes [32·w·k, 32·w·(k+1)), its field j the low w bits of
`f k j`. -/
def Packed (bs : List Byte) (n w : Nat) (f : Nat → Nat → Int) : Prop :=
  bs.length = n * (32 * w) ∧
    ∀ k j, k < n → j < 256 → (field w (slice bs (32 * w * k) (32 * w)) j : Int) = f k j % 2 ^ w

/-- Field j of polynomial k of n polynomials packed at w bits (R230). -/
def packedField (w : Nat) (bs : List Byte) (k j : Nat) : Int := field w (slice bs (32 * w * k) (32 * w)) j

/-! ## The transforms (R140 to R144) -/

/-- `brv8`: the 8 bits of k reversed (R140). -/
def brv8 (k : Nat) : Nat :=
  128 * (k % 2) + 64 * (k / 2 % 2) + 32 * (k / 4 % 2) + 16 * (k / 8 % 2) + 8 * (k / 16 % 2) + 4 * (k / 32 % 2)
    + 2 * (k / 64 % 2) + k / 128 % 2

/-- ZETAS[k] for k in 1 .. 255 (R140): the centered representative of MONT · ROOT^brv8(k) mod Q. -/
def zetaOf (k : Nat) : Int := (4193792 * (1753 : Int) ^ brv8 k).bmod 8380417

/-- The forward butterfly on a[j] and a[j + len] (R142). -/
def butterfly (zeta : Int) (len j : Nat) (a : List Int) : List Int :=
  let t := mont (zeta * a.getD (j + len) 0)
  (a.set (j + len) (low (a.getD j 0 - t))).set j (low (a.getD j 0 + t))

/-- `ntt(a)` as its three nested loops (R142): over len, over start = 2·len·b, over j = start + d, with k counted up. -/
def nttLoop (a : List Int) : List Int :=
  ([128, 64, 32, 16, 8, 4, 2, 1].foldl (fun st len =>
    (List.range (128 / len)).foldl (fun st b =>
      (st.1 + 1, (List.range len).foldl (fun a d => butterfly (zetaOf (st.1 + 1)) len (2 * len * b + d) a) st.2)) st)
    (0, a)).2

/-- The inverse butterfly on a[j] and a[j + len] (R144). -/
def invButterfly (zeta : Int) (len j : Nat) (a : List Int) : List Int :=
  (a.set j (low (a.getD j 0 + a.getD (j + len) 0))).set (j + len)
    (mont (zeta * low (a.getD j 0 - a.getD (j + len) 0)))

/-- `invntt_tomont(a)` as its three nested loops and the scaling by F = 41978 (R144), with k counted down from 256. -/
def invNttLoop (a : List Int) : List Int :=
  ([1, 2, 4, 8, 16, 32, 64, 128].foldl (fun st len =>
    (List.range (128 / len)).foldl (fun st b =>
      (st.1 - 1, (List.range len).foldl (fun a d => invButterfly (-zetaOf (st.1 - 1)) len (2 * len * b + d) a) st.2)) st)
    (256, a)).2.map fun x => mont (41978 * x)

/-- The 256 coefficients of polynomial k of a vector. -/
def coeffsOf (ps : List Machine.Poly) (k : Nat) : List Int := (List.range 256).map (entry ps k)

/-! ## The samplers (R201 to R215) -/

/-- The first n stream bytes of the session of a vector sampler's slot k, or of a matrix entry: the message is the seed
and the nonce's two bytes, least significant first (R201). -/
def stream (mode : XofMode) (seed : List Byte) (nonce n : Nat) : List Byte :=
  xofPrefix mode (seed ++ [BitVec.ofNat 8 (nonce % 256), BitVec.ofNat 8 (nonce / 256)]) n

/-- The nonce of slot k of a vector: (b + k) mod 2^16, b the low 16 bits of ARG[1] (R203). -/
def nonceOf (v : Args) (k : Nat) : Nat := (v.a1.toNat % 65536 + k) % 65536

/-- Byte m of a byte string. -/
def byteAt (bs : List Byte) (m : Nat) : Nat := (bs.getD m 0).toNat

/-- The values the uniform sampler accepts from a stream prefix, in order (R204 to R206). -/
def uniformAccepted (bs : List Byte) : List Int :=
  (((List.range (bs.length / 3)).map fun m =>
    (byteAt bs (3 * m) + 256 * byteAt bs (3 * m + 1) + 65536 * byteAt bs (3 * m + 2)) % 8388608).filter
      fun (t : Nat) => decide (t < 8380417)).map fun (t : Nat) => (t : Int)

/-- The values the eta sampler accepts from a stream prefix, in order (R208, R209). -/
def etaAccepted (bs : List Byte) : List Int :=
  (((List.range (2 * bs.length)).map fun c =>
    if c % 2 = 0 then byteAt bs (c / 2) % 16 else byteAt bs (c / 2) / 16).filter fun (t : Nat) => decide (t < 15)).map
      fun (t : Nat) => 2 - ((t % 5 : Nat) : Int)

/-- `repeat: b = s[m]; m = m + 1 until b <= i` (R215): the byte drawn and the bytes after it. -/
def drawByte (i : Nat) : List Byte → Option (Nat × List Byte)
  | [] => none
  | b :: bs => if b.toNat ≤ i then some (b.toNat, bs) else drawByte i bs

/-- `challenge_poly` on a stream prefix, i = 196 .. 255 (R214, R215); none where the prefix runs out. -/
def challengeLoop (bs : List Byte) : Option (List Int) :=
  ((List.range 60).foldlM (fun (st : Nat × List Byte × List Int) c =>
    (drawByte (196 + c) st.2.1).map fun d =>
      (st.1 / 2, d.2, (st.2.2.set (196 + c) (st.2.2.getD d.1 0)).set d.1 (1 - 2 * ((st.1 % 2 : Nat) : Int))))
    (value (bs.take 8), bs.drop 8, List.replicate 256 0)).map fun st => st.2.2

/-- The pointwise dot product's coefficient j (R168): the first of n terms, then the others added in order. -/
def dotEntry (n : Nat) (a b : Nat → Int) : Int :=
  (List.range (n - 1)).foldl (fun acc c => low (acc + mont (a (c + 1) * b (c + 1)))) (mont (a 0 * b 0))

/-! ## The hint table (R243, R246) -/

/-- The number of nonzero coefficients of a vector of K polynomials (R17, R244). -/
def weight8 (h : List Machine.Poly) : Nat :=
  ((List.range 8).map fun i => (List.range 256).countP fun j => entry h i j ≠ 0).sum

/-- `pack_hint(h)` as its loops (R243); none of the writes goes past the table where the weight is at most OMEGA. -/
def packHintLoop (h : List Machine.Poly) : List Nat :=
  ((List.range 8).foldl (fun st i =>
    let st' := (List.range 256).foldl (fun (st : Nat × List Nat) j =>
      if entry h i j ≠ 0 then (st.1 + 1, st.2.set st.1 j) else st) st
    (st'.1, st'.2.set (75 + i) st'.1)) (0, List.replicate 83 0)).2

/-- `unpack_hint(y)` as its loops (R246): the K rows of 256 coefficients, or none for a reject. -/
def unpackHintLoop (y : List Nat) : Option (List (List Int)) :=
  ((List.range 8).foldlM (fun (st : Nat × List (List Int)) i =>
    let c := y.getD (75 + i) 0
    if c < st.1 ∨ c > 75 then none
    else
      ((List.range (c - st.1)).foldlM (fun (row : List Int) d =>
        if d > 0 ∧ y.getD (st.1 + d) 0 ≤ y.getD (st.1 + d - 1) 0 then none
        else some (row.set (y.getD (st.1 + d) 0) 1)) (List.replicate 256 0)).map fun row => (c, st.2 ++ [row]))
    (0, [])).bind fun st => if ∀ d < 75 - st.1, y.getD (st.1 + d) 0 = 0 then some st.2 else none

/-- The numbers of a byte string. -/
def numbers (bs : List Byte) : List Nat := bs.map BitVec.toNat

/-! ## The opcode table as match and mask (R82) -/

/-- The rows of spec/opcode_table.json: match and mask. -/
def rows : List (Nat × Nat) :=
  [(0x00000000, 0xFFFFFFFF), (0x00000001, 0xFFFFFFFF), (0x00000002, 0xFFFFFFFF), (0x00000003, 0xFFFFFFFF), (0x00000004, 0xFFFFFFFF),
    (0x00000005, 0xFFFFFFFF), (0x00000006, 0xFFFFFFFF), (0x00000007, 0xFFFFFFFF), (0x00000010, 0xF00000FF), (0x00000011, 0xF00000FF)]
  ++ [(0x00000012, 0xF3F000FF), (0x00000013, 0xF3F000FF), (0x00000014, 0xF3F000FF), (0x00000015, 0xF00000FF), (0x00000016, 0xF00000FF),
    (0x00000017, 0xF00000FF), (0x00000018, 0xF3F03FFF), (0x00000019, 0xF00000FF), (0x0000001A, 0xF00000FF), (0x0000001B, 0xF00000FF)]
  ++ [(0x0000001C, 0xF00000FF), (0x00000020, 0xF3F000FF), (0x00000021, 0xF3F000FF), (0x00000028, 0xEFF000FF), (0x00000030, 0xE3FFC0FF),
    (0x00000031, 0xE3FFC0FF), (0x00000032, 0xE3FFC0FF), (0x00000033, 0xEFFFC0FF), (0x00000040, 0xF3F03FFF), (0x00000041, 0xF3FFC0FF)]
  ++ [(0x00000042, 0xF3F03FFF), (0x00000043, 0xF3FFC0FF), (0x00000044, 0xF3F03FFF), (0x00000045, 0xF3FFC0FF), (0x00000046, 0xF3F03FFF),
    (0x00000047, 0xF3FFC0FF), (0x00000048, 0xF3F03FFF), (0x0000004A, 0xFFF03FFF), (0x0000004B, 0xFFFFC0FF), (0x00000050, 0xFFF03FFF)]
  ++ [(0x00000051, 0xFFFFC0FF), (0x00000052, 0xFC0000FF), (0x00000053, 0xFC0000FF), (0x00000054, 0xFC003FFF), (0x00000055, 0xFC003FFF),
    (0x00000060, 0xF3FFC0FF), (0x00000061, 0xF3F03FFF), (0x00000062, 0xF3FFC0FF), (0x00000063, 0xFFFFFFFF), (0x00000064, 0xFFFFFFFF)]

/-- The opcodes of R81 that no row has. -/
def illegalOp (op : Nat) : Bool :=
  (0x08 ≤ op && op ≤ 0x0F) || (0x1D ≤ op && op ≤ 0x1F) || (0x22 ≤ op && op ≤ 0x27) || (0x29 ≤ op && op ≤ 0x2F)
    || (0x34 ≤ op && op ≤ 0x3F) || op == 0x49 || (0x4C ≤ op && op ≤ 0x4F) || (0x56 ≤ op && op ≤ 0x5F) || 0x65 ≤ op

end Sys2Proof.Spec

section

open Sys2Proof Sys2Proof.Machine Sys2Proof.Spec

/-! ## Reset and the invariant -/

/-- R43, R331, R332: the machine of this design after reset, as the host reads it and as the rules name it. That PM and
BM, UNSPECIFIED by R44 and R332, hold nothing is the model's choice (notes/assumptions/1.md). The MATVEC buffers, the
host and the schedule are not in it (they are the model's choices too). -/
def Obligations.ResetState : Prop :=
  State.reset.params = ⟨64, 16384, 32⟩ ∧
  (csrRead State.reset 0x00).1 = 0x56415A32 ∧ (csrRead State.reset 0x04).1 = 0x00402040 ∧
  (∀ off ∈ [0x08, 0x0C, 0x10, 0x14, 0x18, 0x20, 0x24, 0x28, 0x2C], (csrRead State.reset off).1 = 0) ∧
  State.reset.seq = .idle ∧ State.reset.busy = false ∧ State.reset.irq = false ∧ State.reset.latch = none ∧
  State.reset.xof = none ∧ (∀ x, State.reset.pm.get x = none) ∧ ∀ a, State.reset.bm.get a = none

/-- The invariant holds of the machine after reset. -/
def Obligations.ResetMeetsInvariant : Prop := State.reset.Inv

/-- Every step keeps the invariant: the parameters stay a block's (R10, R34), PM and BM stay canonical and inside their
spaces (R20, R24), ERRCODE is nonzero exactly while ERR = 1 (R31), DONE and ERR are 0 and the arguments are latched
while a command runs (R27, R29), no XOF session is open while the block is idle (R39), and an open session's message
begins with the seed that BM holds at the running command's address (R58, R67). -/
def Obligations.StepKeepsInvariant : Prop := ∀ s t, s.Inv → step s = .next t → t.Inv

/-- R330, R334: RST in any state, a running command included, gives the block its reset state. The model's choices in
it: that PM and BM are unwritten (notes/assumptions/11.md), that both MATVEC buffers, which R331 leaves UNSPECIFIED,
take 0 (notes/assumptions/8.md), and that the host, the schedule and the count of free values go on
(notes/assumptions/20.md). -/
def Obligations.ResetAbandonsCommand : Prop :=
  ∀ s ts, s.turns = .reset :: ts →
    ∃ t, step s = .next t ∧
      t = { State.reset with params := s.params, host := s.host, turns := ts, freeCount := s.freeCount }

/-! ## Control and status registers -/

/-- R26, R34, R57, R300: what each offset of the register block reads, the number of each error code included, and that
a read changes nothing. RESULT and RESULT1 are read while BUSY = 0. PARAM's fields are NSLOT, TR_BYTES and BM_SIZE/256,
and 0x00402040 at this design's values. -/
def Obligations.RegisterReads : Prop :=
  ∀ s : State,
    csrRead s 0x00 = (0x56415A32, s) ∧ (csrRead s 0x04).2 = s ∧
    (s.params = ⟨64, 16384, 32⟩ → (csrRead s 0x04).1 = 0x00402040) ∧
    (s.params.Ok → (csrRead s 0x04).1.toNat % 256 = s.params.nslot ∧
      (csrRead s 0x04).1.toNat / 256 % 256 = s.params.trBytes ∧
      (csrRead s 0x04).1.toNat / 65536 * 256 = s.params.bmSize) ∧
    csrRead s 0x08 = (s.cmd, s) ∧
    csrRead s 0x10 = ((if s.ie then 1 else 0), s) ∧
    (s.seq = .idle → csrRead s 0x14 = (s.result, s) ∧ csrRead s 0x18 = (s.result1, s)) ∧
    csrRead s 0x20 = (s.args.a0, s) ∧ csrRead s 0x24 = (s.args.a1, s) ∧ csrRead s 0x28 = (s.args.a2, s) ∧
    csrRead s 0x2C = (s.args.a3, s) ∧
    (∀ off ∈ [0x1C, 0x30, 0x34, 0x38, 0x3C], csrRead s off = (0, s)) ∧
    (csrRead s 0x0C).2 = s ∧ (csrRead s 0x0C).1.getLsbD 0 = decide (s.seq = .run) ∧
    (csrRead s 0x0C).1.getLsbD 1 = s.done ∧ (csrRead s 0x0C).1.getLsbD 2 = s.err ∧
    (csrRead s 0x0C).1.getLsbD 3 = s.ovr ∧
    (csrRead s 0x0C).1.toNat / 16 % 16 = 0 ∧ (csrRead s 0x0C).1.toNat / 256 = match s.errcode with
      | .noError => 0
      | .illegalOpcode => 1
      | .reservedField => 2
      | .slotRange => 3
      | .overlap => 4
      | .bmRange => 5
      | .hintOverflow => 6
      | .aborted => 7

/-- R27, R28: a CMD write while BUSY = 0 latches the word and ARG0 to ARG3, sets BUSY and clears DONE, ERR and ERRCODE;
while BUSY = 1 it only sets OVR. -/
def Obligations.CommandWrite : Prop :=
  ∀ (s : State) (w : Word),
    (s.seq = .idle → csrWrite s 0x08 w =
      { s with cmd := w, latch := some s.args, seq := .run, done := false, err := false, errcode := .noError }) ∧
    (s.seq = .run → csrWrite s 0x08 w = { s with ovr := true })

/-- R30: a STATUS write clears DONE, ERR and OVR where it writes 1, clears ERRCODE with ERR, and changes nothing else. -/
def Obligations.StatusWrite : Prop :=
  ∀ (s : State) (v : Word),
    csrWrite s 0x0C v =
      { s with
        done := if v.getLsbD 1 then false else s.done
        err := if v.getLsbD 2 then false else s.err
        errcode := if v.getLsbD 2 then .noError else s.errcode
        ovr := if v.getLsbD 3 then false else s.ovr }

/-- R25, R26, R27, R32: an ARG write changes that register alone and not the latch of a running command; a CTRL write
while BUSY = 0, or with bit 1 clear, sets IE alone, and bit 1 reads 0; every other offset ignores writes. That CTRL
reads back bit 0 as IE after the aborting write too is the model's reading (notes/assumptions/24.md). -/
def Obligations.OtherRegisterWrites : Prop :=
  ∀ (s : State) (v : Word),
    csrWrite s 0x20 v = { s with args := { s.args with a0 := v } } ∧
    csrWrite s 0x24 v = { s with args := { s.args with a1 := v } } ∧
    csrWrite s 0x28 v = { s with args := { s.args with a2 := v } } ∧
    csrWrite s 0x2C v = { s with args := { s.args with a3 := v } } ∧
    (s.seq = .idle ∨ v.getLsbD 1 = false → csrWrite s 0x10 v = { s with ie := v.getLsbD 0 }) ∧
    (csrRead (csrWrite s 0x10 v) 0x10).1 = (if v.getLsbD 0 then 1 else 0) ∧
    ∀ off ∈ [0x00, 0x04, 0x14, 0x18, 0x1C, 0x30, 0x34, 0x38, 0x3C], csrWrite s off v = s

/-- R37, R310: IRQ is DONE and IE, and deasserted at reset; writing 1 to DONE, issuing a command and writing IE <- 0
each take it away, and the last, while BUSY = 0, leaves DONE as it is. That an aborting write with bit 0 clear also
takes IE, and so IRQ, away is the model's reading (notes/assumptions/24.md). -/
def Obligations.InterruptOutput : Prop :=
  ∀ (s : State) (v : Word),
    s.irq = (s.done && s.ie) ∧ State.reset.irq = false ∧
    (v.getLsbD 1 = true → (csrWrite s 0x0C v).irq = false) ∧
    (s.seq = .idle → (csrWrite s 0x08 v).irq = false) ∧
    (v.getLsbD 0 = false → (csrWrite s 0x10 v).irq = false) ∧
    (v.getLsbD 0 = false → s.seq = .idle → (csrWrite s 0x10 v).done = s.done)

/-! ## The host window -/

/-- R53, R54, R55, R306: exactly which accesses below 0x4000 + BM_SIZE answer with a bus error, for a load and for a
store: all of the hole, a register access that is not an aligned 32-bit word, a BM access that is not naturally aligned
or goes past the end of BM. An aligned 32-bit access to a register is that register's read or write: the value goes to
the host register, and the host goes on. An access at or above 0x4000 + BM_SIZE has no step (R53; the refusal is
notes/assumptions/21.md). That a misaligned BM access is a bus error while BUSY = 1 too, and not the refusal of R58, is
the model's reading (notes/assumptions/15.md). -/
def Obligations.WindowBusErrors : Prop :=
  ∀ (s : State) (w : Width) (off : Nat) (h : Fin 8) (v : Word),
    let n := match w with
      | .w8 => 1
      | .w16 => 2
      | .w32 => 4
    let bad := (off < 0x40 ∧ (w ≠ .w32 ∨ off % 4 ≠ 0)) ∨ (0x40 ≤ off ∧ off < 0x4000) ∨
      (0x4000 ≤ off ∧ (off % n ≠ 0 ∨ 0x4000 + s.params.bmSize < off + n))
    (off < 0x4000 + s.params.bmSize →
      (hostLoad w off h s = .fault .busError ↔ bad) ∧ (hostStore w off v s = .fault .busError ↔ bad)) ∧
    (off < 0x40 → w = .w32 → off % 4 = 0 →
      hostLoad w off h s = .next { (csrRead s off).2 with
        host := { s.host with regs := s.host.regs.set h (csrRead s off).1, pc := s.host.pc + 1 } } ∧
      hostStore w off v s = .next { csrWrite s off v with host := { s.host with pc := s.host.pc + 1 } }) ∧
    (0x4000 + s.params.bmSize ≤ off →
      hostLoad w off h s = .refused .outsideWindow ∧ hostStore w off v s = .refused .outsideWindow)

/-- R52, R58, R59: a naturally aligned BM access while BUSY = 1 has no step; while BUSY = 0 a load of bytes that hold
values gives them as a little-endian number, zero-extended (the extension is notes/assumptions/3.md), and changes a host
register and the host's place alone; a load of an unwritten byte faults; a store writes the value's bytes, least
significant first, and changes nothing else but the host's place. That a store of 8 or 16 bits writes the LOW bytes of the
32-bit host value is the model's choice too (DESIGN CHOICE, notes/assumptions/3.md). -/
def Obligations.HostByteAccess : Prop :=
  ∀ (s : State) (w : Width) (n a : Nat) (h : Fin 8) (v : Word),
    (w, n) ∈ [(Width.w8, 1), (Width.w16, 2), (Width.w32, 4)] → a % n = 0 → BytesFit s a n →
    (s.seq = .run → hostLoad w (0x4000 + a) h s = .refused .bmAccessWhileBusy ∧
      hostStore w (0x4000 + a) v s = .refused .bmAccessWhileBusy) ∧
    (s.seq = .idle →
      (∀ bs, bs.length = n → BytesHold s a bs → hostLoad w (0x4000 + a) h s = .next
        { s with host := { s.host with regs := s.host.regs.set h (BitVec.ofNat 32 (value bs)), pc := s.host.pc + 1 } }) ∧
      (Memory.wf s.params s.bm → (∃ k, k < n ∧ s.bm.get (a + k) = none) →
        hostLoad w (0x4000 + a) h s = .fault .unwrittenByte) ∧
      ∃ t bs, hostStore w (0x4000 + a) v s = .next t ∧ bs.length = n ∧ value bs = v.toNat % 256 ^ n ∧
        BytesBecome s t a bs ∧ t = { s with bm := t.bm, host := { s.host with pc := s.host.pc + 1 } })

/-- R52: after a 32-bit store of v at an aligned BM offset, an 8-bit load at + i gives (v >> 8i) & 0xFF and a 16-bit
load at + 2j gives (v >> 16j) & 0xFFFF. -/
def Obligations.AccessWidthsAgree : Prop :=
  ∀ (s t : State) (a : Nat) (v : Word) (h : Fin 8), Memory.wf s.params s.bm → s.seq = .idle → a % 4 = 0 →
    BytesFit s a 4 →
    hostStore .w32 (0x4000 + a) v s = .next t →
    (∀ i, i < 4 → ∃ u, hostLoad .w8 (0x4000 + a + i) h t = .next u ∧
      (u.hostReg h).toNat = v.toNat / 2 ^ (8 * i) % 256) ∧
    ∀ j, j < 2 → ∃ u, hostLoad .w16 (0x4000 + a + 2 * j) h t = .next u ∧
      (u.hostReg h).toNat = v.toNat / 2 ^ (16 * j) % 65536

/-- R23, R318: a turn of the host never gives a slot of PM a value (an abort may leave one unwritten), and it starts a
command only by a 32-bit store to CMD; a turn of the sequencer while the block is idle does nothing. -/
def Obligations.OnlyCommandWriteStartsWork : Prop :=
  (∀ s t, hostTurn s = .next t →
    (∀ x, t.pm.get x = s.pm.get x ∨ t.pm.get x = none) ∧
    (s.seq = .idle → (∀ x, t.pm.get x = s.pm.get x) ∧
      (t.seq = .run → ∃ v, s.host.prog[s.host.pc]? = some (.store .w32 0x08 v) ∧ t.cmd = hostVal s v))) ∧
  ∀ s, s.seq = .idle → sequencerTurn s = .next s

/-- R312: CTRL.ABORT while a command runs that passes its checks and is no hint packer: every slot and byte it would
write reads unwritten, every other one as before, the session is dropped, and the command has ended with ABORTED, RESULT
= 0 and RESULT1 = 0. PKHINT and PACKSIG that pass their checks: the destination bytes read unwritten, but not where the
hint slots hold a weight above 75, since then nothing would be written. Where the word is no command, or a check fails,
nothing would be written and PM and BM stay. The model's choices in it: what such a command would write
(notes/assumptions/10.md), that the MATVEC buffers stay (notes/assumptions/8.md), and that the aborting write sets IE
too (notes/assumptions/24.md). -/
def Obligations.AbortRunningCommand : Prop :=
  ∀ (s : State) (v : Args) (c : Word), s.seq = .run → s.latch = some v → c.getLsbD 1 = true →
    let t := csrWrite s 0x10 c
    (t = { endedWith s .aborted with ie := c.getLsbD 0, pm := t.pm, bm := t.bm } ∧ t.irq = c.getLsbD 0) ∧
    (∀ i, decode s.cmd = .ok i → Passes s.params v i → (∀ ra, i ≠ .pkhint ra) → (∀ ra rb, i ≠ .packsig ra rb) →
      (∀ x, t.pm.get x = if ∃ r ∈ slotsOut s.params i, r.1 ≤ x ∧ x < r.1 + r.2 then none else s.pm.get x) ∧
      ∀ a, t.bm.get a = if ∃ r ∈ bytesOut s.params v i, r.1 ≤ a ∧ a < r.1 + r.2 then none else s.bm.get a) ∧
    (∀ i x, decode s.cmd = .ok i → Passes s.params v i → (i = .pkhint x ∨ ∃ ra, i = .packsig ra x) →
      PolyMem.wf s.params s.pm →
      SlotsSame s t ∧
      ((∃ h, h.length = 8 ∧ SlotsHold s x h ∧ 75 < weight8 h) → BytesSame s t) ∧
      (¬ (∃ h, h.length = 8 ∧ SlotsHold s x h ∧ 75 < weight8 h) →
        ∀ a, t.bm.get a = if ∃ r ∈ bytesOut s.params v i, r.1 ≤ a ∧ a < r.1 + r.2 then none else s.bm.get a)) ∧
    ((∀ i, decode s.cmd = .ok i → ¬ Passes s.params v i) →
      csrWrite s 0x10 c = { endedWith s .aborted with ie := c.getLsbD 0 })

/-- R85: the host's register and branch operations change a host register or the host's place and nothing else; its
loads and stores are the window's accesses, with the value of a constant or of a host register; and a turn of the host
runs the operation at its place. The model's choices in it: the sum of ADDI wraps, a target is an index of the program,
HALT stays where it is, and past the end of its program the host does nothing (all notes/assumptions/3.md). -/
def Obligations.HostRegisterOperations : Prop :=
  ∀ (s : State) (h g : Fin 8) (v : Word) (t : Nat),
    let next := fun (x : Word) =>
      (Host.Outcome.next { s with host := { s.host with regs := s.host.regs.set h x, pc := s.host.pc + 1 } } : Result)
    let goto := fun (p : Nat) => (Host.Outcome.next { s with host := { s.host with pc := p } } : Result)
    hostOp (.li h v) s = next v ∧
    hostOp (.addi h g v) s = next (s.host.regs[g] + v) ∧
    hostOp (.andi h g v) s = next (s.host.regs[g] &&& v) ∧
    hostOp (.beqz h t) s = goto (if s.host.regs[h] = 0 then t else s.host.pc + 1) ∧
    hostOp (.bnez h t) s = goto (if s.host.regs[h] = 0 then s.host.pc + 1 else t) ∧
    hostOp (.jump t) s = goto t ∧ hostOp .halt s = .next s ∧
    (∀ w off, hostOp (.load w off h) s = hostLoad w off h s ∧
      hostOp (.store w off (.imm v)) s = hostStore w off v s ∧
      hostOp (.store w off (.reg g)) s = hostStore w off s.host.regs[g] s) ∧
    (∀ op, s.host.prog[s.host.pc]? = some op → hostTurn s = hostOp op s) ∧
    (s.host.prog[s.host.pc]? = none → hostTurn s = .next s)

/-! ## Encoding -/

/-- R83, and one word of each family written out from the fields of R70 and the rows of R80: each decodes to the command
it stands for; a reserved field and an illegal opcode do not decode; and VL selects the counts 1, 7 and 8, S the seed
lengths 32 and 64 (R73, R74). -/
def Obligations.SpecWordsDecode : Prop :=
  decode 0x08801010 = .ok (.padd 16 0 8 .vecK) ∧ decode 0x00022828 = .ok (.matvec 40 8 .s32) ∧
  decode 0x14000031 = .ok (.seta 0 .vecL .s64) ∧ decode 0x00000000 = .ok .nop ∧
  decode 0x00000005 = .ok .sdecomp ∧ decode 0x05183F11 = .ok (.psub 63 32 17 .vecL) ∧
  decode 0x05183F19 = .ok (.pp2r 63 32 17 .vecL) ∧ decode 0x08048018 = .ok (.pchknorm 18 .vecK) ∧
  decode 0x0AB4851C = .ok (.pusehint 5 18 43 .vecK) ∧ decode 0x04083F21 = .ok (.pinvntt 63 32 .vecL) ∧
  decode 0x00003F33 = .ok (.schal 63 .s32) ∧ decode 0x08048046 = .ok (.pkz 18 .vecK) ∧
  decode 0x00003F4B = .ok (.upkhint 63) ∧ decode 0x02B48552 = .ok (.packsk 5 18 43) ∧
  decode 0x01180055 = .ok (.unpacksig 32 17) ∧ decode 0x04080061 = .ok (.stpoly 32 .vecL) ∧
  decode 0x00000064 = .ok .wipe ∧
  decode 0x00000100 = .error .reservedField ∧ decode 0x00000049 = .error .illegalOpcode ∧
  VecLen.one.count = 1 ∧ VecLen.vecL.count = 7 ∧ VecLen.vecK.count = 8 ∧ SeedLen.s32.bytes = 32 ∧
  SeedLen.s64.bytes = 64

/-- Decoding the word of a well-formed command gives the command back, every operand at every value its field admits. -/
def Obligations.DecodeEncode : Prop := ∀ i : Instr, i.wf = true → decode (encode i) = .ok i

/-- A word that decodes is the word of the command it decodes to, and that command is well formed: each word has one
meaning, and no bit of it is ignored. -/
def Obligations.EncodeDecode : Prop := ∀ (w : Word) (i : Instr), decode w = .ok i → i.wf = true ∧ encode i = w

/-- R71, R79, R81: a word is ILLEGAL_OPCODE exactly where its low 8 bits are one of the 206 listed values. -/
def Obligations.IllegalOpcodes : Prop :=
  (∀ w : Word, decode w = .error .illegalOpcode ↔ illegalOp (w.toNat % 256) = true) ∧
  ((List.range 256).filter fun op => illegalOp op).length = 206

/-- R82: a word is a command exactly where it matches a row of the opcode table in the row's mask and its VL is not 3. -/
def Obligations.MatchMaskRows : Prop :=
  ∀ w : Word, (∃ i, decode w = .ok i) ↔
    (∃ r ∈ rows, w.toNat &&& r.2 = r.1) ∧ w.toNat / 67108864 % 4 ≠ 3

/-! ## The step -/

/-- The sequencer's turn runs the latched command (R36, R38): the step of a state whose CMD decodes is `exec` of that
command at the state with the turn taken. So is the step after a word has been placed for the sequencer. A step that is
the host's runs its turn. The model's choices in it: the schedule, and that the sequencer moves while BUSY = 1 and the
host otherwise where the schedule is empty (notes/assumptions/2.md); and how withFetchWord places a word
(notes/assumptions/4.md). -/
def Obligations.StepRunsDecoded : Prop :=
  (∀ (s : State) (i : Instr), s.seq = .run → decode s.cmd = .ok i →
    ((∃ ts, s.turns = .sequencer :: ts) ∨ s.turns = []) → step s = exec i { s with turns := s.turns.tail }) ∧
  (∀ s : State, ((∃ ts, s.turns = .host :: ts) ∨ (s.turns = [] ∧ s.seq = .idle)) →
    step s = hostTurn { s with turns := s.turns.tail }) ∧
  ∀ (s : State) (i : Instr), i.wf = true →
    step (s.withFetchWord 32 (encode i).toNat) =
      exec i { s with
        cmd := encode i, latch := some s.args, seq := .run, done := false, err := false, errcode := .noError }

/-- R71, R79, R303: a word that is no command ends with ILLEGAL_OPCODE or RESERVED_FIELD and has no other effect. -/
def Obligations.BadWordEnds : Prop :=
  ∀ s : State, s.seq = .run →
    (decode s.cmd = .error .illegalOpcode → sequencerTurn s = .next (endedWith s .illegalOpcode)) ∧
    (decode s.cmd = .error .reservedField → sequencerTurn s = .next (endedWith s .reservedField))

/-! ## The checks -/

/-- R22, R72, R301: a command with a slot operand that goes past the last slot ends with SLOT_RANGE and no other effect,
whatever its other operands are; and only such a command ends with it. -/
def Obligations.SlotRangeChecked : Prop :=
  (∀ (i : Instr) (s : State), ¬ SlotsInRange s.params i → exec i s = .next (endedWith s .slotRange)) ∧
  ∀ (i : Instr) (s t : State), s.errcode ≠ .slotRange → exec i s = .next t → t.errcode = .slotRange →
    ¬ SlotsInRange s.params i

/-- R302: a command whose slots are in range and one of whose byte ranges goes past BM ends with BM_RANGE and no other
effect; the end is computed without wrapping. Only such a command ends with it: a range of length 0 at a ≤ BM_SIZE does
not. -/
def Obligations.ByteRangeChecked : Prop :=
  (∀ (i : Instr) (s : State) (v : Args), s.latch = some v → SlotsInRange s.params i → ¬ BytesInRange s.params v i →
    exec i s = .next (endedWith s .bmRange)) ∧
  ∀ (i : Instr) (s t : State) (v : Args), s.latch = some v → s.errcode ≠ .bmRange → exec i s = .next t →
    t.errcode = .bmRange → ¬ BytesInRange s.params v i

/-- R303, R304: a command whose ranges are in range and that breaks (a), (b) or (c) of R304 ends with OVERLAP and no other
effect, and only a command that breaks one of them does; the samplers, PZERO, BZERO, WIPE, NOP, PCHKNORM, the scalar
commands, the polynomial packers and unpackers and the transfers break none. -/
def Obligations.OverlapChecked : Prop :=
  (∀ (i : Instr) (s : State) (v : Args), s.latch = some v → SlotsInRange s.params i → BytesInRange s.params v i →
    Overlaps s.params v i →
    exec i s = .next (endedWith s .overlap)) ∧
  (∀ (i : Instr) (s t : State) (v : Args), s.latch = some v → s.errcode ≠ .overlap → exec i s = .next t →
    t.errcode = .overlap → Overlaps s.params v i) ∧
  ∀ (p : Config.Params) (i : Instr) (v : Args), neverOverlaps i = true → ¬ Overlaps p v i

/-- R307, R44: a command reads no slot and no byte that nothing has written. A running command that completes without an
error had all its source slots written, and its source bytes too, but for a sampler that goes on, whose seed is its
session's copy (R67), and but for PCHKNORM with a bound above (Q-1)/8: that one completes with RESULT = 1 whatever its
slots hold, written or not (R174, R175; that it then reads no slot is notes/assumptions/18.md). A command with one source
range, in PM or in BM, that passes its checks and whose source is not all written faults, PCHKNORM where its bound is at
most (Q-1)/8, and a rejection sampler where no session is open. So does MATVEC with a seed that is not all written where
no session is open, and on every turn with a source vector that is not all written, which is read before any entry is
sampled by the model's choice (notes/assumptions/27.md). -/
def Obligations.UnwrittenSourcesFault : Prop :=
  (∀ (i : Instr) (s t : State) (v : Args), PolyMem.wf s.params s.pm → Memory.wf s.params s.bm → s.latch = some v →
    s.seq = .run → exec i s = .next t → t.seq = .idle → t.err = false →
    (∀ ra vl, i = .pchknorm ra vl → v.a0.toInt ≤ 1047552) →
    (∀ r ∈ slotsIn i, ∀ k, k < r.2 → s.pm.get (r.1 + k) ≠ none) ∧
    (s.xof = none ∨ isSampler i = false → ∀ r ∈ bytesIn s.params v i, ∀ k, k < r.2 → s.bm.get (r.1 + k) ≠ none)) ∧
  (∀ (s : State) (v : Args) (ra : Nat) (vl : VecLen), s.latch = some v → v.a0.toInt > 1047552 → SlotsFit s ra vl.count →
    exec (.pchknorm ra vl) s = .next (doneWith s 1 0)) ∧
  ∀ (s : State) (v : Args) (rd ra rb : Nat) (vl : VecLen) (sl : SeedLen), PolyMem.wf s.params s.pm →
    Memory.wf s.params s.bm → s.latch = some v →
    (∀ i ∈ [Instr.pshl rd ra vl, .pred rd ra vl, .pcaddq rd ra vl, .pntt rd ra vl, .pinvntt rd ra vl, .pp2r rd ra rb vl,
        .pdecomp rd ra rb vl, .pchknorm ra vl, .pkt1 ra vl, .pkt0 ra vl, .pketa ra vl, .pkz ra vl, .pkw1 ra vl,
        .pkhint ra, .stpoly ra vl],
      Passes s.params v i → (i = .pchknorm ra vl → v.a0.toInt ≤ 1047552) →
        (∃ r ∈ slotsIn i, ∃ k, k < r.2 ∧ s.pm.get (r.1 + k) = none) → exec i s = .fault .unwrittenSlot) ∧
    (∀ i ∈ [Instr.upkt1 rd vl, .upkt0 rd vl, .upketa rd vl, .upkz rd vl, .ldpoly rd vl, .upkhint rd, .unpackpk rd,
        .unpacksk rd ra rb, .unpacksig ra rb, .sgamma1 rd vl sl],
      Passes s.params v i → (∃ r ∈ bytesIn s.params v i, ∃ k, k < r.2 ∧ s.bm.get (r.1 + k) = none) →
        exec i s = .fault .unwrittenByte) ∧
    (∀ i ∈ [Instr.sunif rd vl sl, .seta rd vl sl, .schal rd sl, .matvec rd ra sl],
      Passes s.params v i → s.xof = none → (∃ r ∈ bytesIn s.params v i, ∃ k, k < r.2 ∧ s.bm.get (r.1 + k) = none) →
        exec i s = .fault .unwrittenByte) ∧
    ∀ seed, seed.length = sl.bytes → SeedHeld s v.a0.toNat seed → Passes s.params v (.matvec rd ra sl) →
      (∃ k, k < 7 ∧ s.pm.get (ra + k) = none) → exec (.matvec rd ra sl) s = .fault .unwrittenSlot

/-- R29, R33, R303: what any command's turn leaves. The parameters, CMD, OVR, IE, ARG0 to ARG3, the latch, the host, the
schedule and the model's counter stay. Then either it is a sampler still running, and only its session changed, having
drawn 1008 bytes more, and a MATVEC still running leaves both hidden buffers as they were (the model's choices,
notes/assumptions/6.md and notes/assumptions/8.md); or it has completed: BUSY 0, DONE 1, no session, and either ERR and
ERRCODE stay, or ERR is 1 with a code, RESULT and RESULT1 are 0, and every slot and byte and the MATVEC buffers stay.
Only MATVEC and WIPE change the MATVEC buffers. -/
def Obligations.CommandFrame : Prop :=
  ∀ (i : Instr) (s t : State), exec i s = .next t →
    t.params = s.params ∧ t.cmd = s.cmd ∧ t.ovr = s.ovr ∧ t.ie = s.ie ∧ t.args = s.args ∧ t.latch = s.latch ∧
    t.host = s.host ∧
    t.turns = s.turns ∧ t.freeCount = s.freeCount ∧
    ((isSampler i = true ∧ ∃ x : XofSession, t = { s with xof := some x } ∧ x.pos = (match s.xof with
        | some z => z.pos
        | none => 0) + 1008) ∨
      (t.seq = .idle ∧ t.done = true ∧ t.xof = none ∧
        ((t.err = s.err ∧ t.errcode = s.errcode ∧
            ((∀ rd ra sl, i ≠ .matvec rd ra sl) → i ≠ .wipe → t.matEntry = s.matEntry ∧ t.matAcc = s.matAcc)) ∨
          ∃ e, e ≠ .noError ∧ t = endedWith s e)))

/-! ## Scalar commands and their arithmetic -/

/-- R103, R104, R105, R285: NOP, SMONT, SRED and SCADDQ complete in every state, with the value of their formula in RESULT
and 0 in RESULT1, and change nothing else. -/
def Obligations.ModularScalars : Prop :=
  ∀ (s : State) (v : Args), s.latch = some v →
    exec .nop s = .next (doneWith s 0 0) ∧
    exec .smont s = .next (doneWith s (word (mont (v.a1.toInt * 4294967296 + v.a0.toNat))) 0) ∧
    exec .sred s = .next (doneWith s (word (reduce v.a0.toInt)) 0) ∧
    exec .scaddq s = .next (doneWith s (word (addQ v.a0.toInt)) 0)

/-- R124, R125, R126, R127: SP2R, SDECOMP, SMKHINT and SUSEHINT complete in every state, with the values of their formulas
in RESULT and RESULT1, and change nothing else. -/
def Obligations.RoundingScalars : Prop :=
  ∀ (s : State) (v : Args), s.latch = some v →
    exec .sp2r s = .next (doneWith s (word (roundHigh v.a0.toInt)) (word (roundLow v.a0.toInt))) ∧
    exec .sdecomp s = .next (doneWith s (word (bucket v.a0.toInt)) (word (offset v.a0.toInt))) ∧
    exec .smkhint s = .next (doneWith s (word (hintBit v.a0.toInt v.a1.toInt)) 0) ∧
    exec .susehint s = .next (doneWith s (word (hinted v.a0.toInt v.a1.toInt)) 0)

/-- R106, R109: for a in [-2^31·Q, 2^31·Q) the Montgomery reduction r has r·2^32 ≡ a (mod Q) and -Q < r < Q; at 2^31·Q
it is Q; and the constants of R109. -/
def Obligations.MontgomeryReduces : Prop :=
  (∀ a : Int, -(2147483648 * 8380417) ≤ a → a < 2147483648 * 8380417 →
    (8380417 : Int) ∣ (montgomeryReduce a).toInt * 4294967296 - a ∧
    -8380417 < (montgomeryReduce a).toInt ∧ (montgomeryReduce a).toInt < 8380417) ∧
  (montgomeryReduce (2147483648 * 8380417)).toInt = 8380417 ∧ (montgomeryReduce 4193792).toInt = 1 ∧
  (montgomeryReduce 4294967296).toInt = 1 ∧ (montgomeryReduce 1).toInt = -114592 ∧
  (4294967296 : Int) % 8380417 = 4193792

/-- R107, R108: the partial reduction is congruent and within [-6283009, 6283008] up to 2^31 - 2^22 - 1, both bounds
being reached, and within [-2097408, 2096895] above; the conditional addition is congruent (mod Q) to every 32-bit a
where the sum is kept, the standard representative for a in (-Q, Q), and still negative below -Q. -/
def Obligations.PartialReductions : Prop :=
  (∀ a : Int, -2147483648 ≤ a → a ≤ 2143289343 →
    (8380417 : Int) ∣ (reduce32 a).toInt - a ∧ -6283009 ≤ (reduce32 a).toInt ∧ (reduce32 a).toInt ≤ 6283008) ∧
  (reduce32 (-2143289344)).toInt = -6283009 ∧ (reduce32 2143289343).toInt = 6283008 ∧
  (∀ a : Int, 2143289344 ≤ a → a ≤ 2147483647 →
    (reduce32 a).toInt = a - 256 * 8380417 ∧ (8380417 : Int) ∣ (reduce32 a).toInt - a ∧
    -2097408 ≤ (reduce32 a).toInt ∧ (reduce32 a).toInt ≤ 2096895) ∧
  ∀ a : Int, -2147483648 ≤ a → a ≤ 2147483647 →
    (8380417 : Int) ∣ (caddq a).toInt - a ∧
    (-8380417 < a → a < 8380417 → 0 ≤ (caddq a).toInt ∧ (caddq a).toInt < 8380417) ∧
    (a < -8380417 → (caddq a).toInt < 0)

/-- R128, R178: on [0, Q), power2round splits a exactly into a1 in [0, 1023] and a0 in [-4095, 4096]; and it undoes the
shift of a t1 value. -/
def Obligations.PowerOfTwoSplit : Prop :=
  (∀ a : Int, 0 ≤ a → a < 8380417 →
    (power2round a).1.toInt * 8192 + (power2round a).2.toInt = a ∧
    -4095 ≤ (power2round a).2.toInt ∧ (power2round a).2.toInt ≤ 4096 ∧
    0 ≤ (power2round a).1.toInt ∧ (power2round a).1.toInt ≤ 1023) ∧
  ∀ a1 : Int, 0 ≤ a1 → a1 ≤ 1023 → (power2round (a1 * 8192)).1.toInt = a1 ∧ (power2round (a1 * 8192)).2.toInt = 0

/-- R129, R130: on [0, Q), decompose gives a1 in [0, 15], all 16 occurring, and a0 in [-GAMMA2, GAMMA2] with
a1·2·GAMMA2 + a0 ≡ a (mod Q); a0 = -GAMMA2 only at 8118529, with a1 = 0; and use_hint of the hint made gives a1 back. -/
def Obligations.BucketSplit : Prop :=
  (∀ a : Int, 0 ≤ a → a < 8380417 →
    let a1 := (decompose a).1.toInt
    let a0 := (decompose a).2.toInt
    0 ≤ a1 ∧ a1 ≤ 15 ∧ -261888 ≤ a0 ∧ a0 ≤ 261888 ∧ (8380417 : Int) ∣ a1 * 523776 + a0 - a ∧
    (a0 = -261888 ↔ a = 8118529) ∧ (a = 8118529 → a1 = 0) ∧
    makeHint a0 a1 = 0 ∧ useHint a (makeHint a0 a1) = (decompose a).1) ∧
  ∀ a1 : Int, 0 ≤ a1 → a1 ≤ 15 → ∃ a : Int, 0 ≤ a ∧ a < 8380417 ∧ (decompose a).1.toInt = a1

/-! ## Polynomial commands -/

/-- R160, R161, R162, R166, R172: PADD, PSUB, PPWM and PUSEHINT complete, with each coefficient of the destination its
formula of the two source coefficients, for every legal placement of the three ranges. -/
def Obligations.TwoSourceLifts : Prop :=
  ∀ (s : State) (rd ra rb : Nat) (vl : VecLen) (as bs : List Machine.Poly),
    as.length = vl.count → bs.length = vl.count → SlotsHold s ra as → SlotsHold s rb bs →
    SlotsFit s rd vl.count → SlotsFit s ra vl.count → SlotsFit s rb vl.count →
    SameOrApart rd ra vl.count → SameOrApart rd rb vl.count →
    WritesSlots (.padd rd ra rb vl) s rd vl.count 0 (fun k j => low (entry as k j + entry bs k j)) ∧
    WritesSlots (.psub rd ra rb vl) s rd vl.count 0 (fun k j => low (entry as k j - entry bs k j)) ∧
    WritesSlots (.ppwm rd ra rb vl) s rd vl.count 0 (fun k j => mont (entry as k j * entry bs k j)) ∧
    WritesSlots (.pusehint rd ra rb vl) s rd vl.count 0 (fun k j => hinted (entry as k j) (entry bs k j))

/-- R163, R164, R165: PSHL, PRED and PCADDQ complete, with each coefficient of the destination its formula of the source
coefficient. -/
def Obligations.OneSourceLifts : Prop :=
  ∀ (s : State) (rd ra : Nat) (vl : VecLen) (as : List Machine.Poly),
    as.length = vl.count → SlotsHold s ra as → SlotsFit s rd vl.count → SlotsFit s ra vl.count →
    SameOrApart rd ra vl.count →
    WritesSlots (.pshl rd ra vl) s rd vl.count 0 (fun k j => low (entry as k j * 8192)) ∧
    WritesSlots (.pred rd ra vl) s rd vl.count 0 (fun k j => reduce (entry as k j)) ∧
    WritesSlots (.pcaddq rd ra vl) s rd vl.count 0 (fun k j => addQ (entry as k j))

/-- R169, R170: PP2R and PDECOMP complete: a1 of each source coefficient to rd, a0 to rb, nothing else. -/
def Obligations.TwoResultLifts : Prop :=
  ∀ (s : State) (rd ra rb : Nat) (vl : VecLen) (as : List Machine.Poly),
    as.length = vl.count → SlotsHold s ra as → SlotsFit s rd vl.count → SlotsFit s ra vl.count →
    SlotsFit s rb vl.count →
    SameOrApart rd ra vl.count → SameOrApart rb ra vl.count → Apart rd vl.count rb vl.count →
    ∀ c ∈ [(Instr.pp2r rd ra rb vl, roundHigh, roundLow), (.pdecomp rd ra rb vl, bucket, offset)],
      ∃ t ps qs, exec c.1 s = .next t ∧ Completes s t 0 0 ∧ BytesSame s t ∧ ps.length = vl.count ∧
        qs.length = vl.count ∧
        (∀ y, t.pm.get y = if rd ≤ y ∧ y < rd + vl.count then ps[y - rd]?
          else if rb ≤ y ∧ y < rb + vl.count then qs[y - rb]? else s.pm.get y) ∧
        ∀ k j, k < vl.count → j < 256 → entry ps k j = c.2.1 (entry as k j) ∧ entry qs k j = c.2.2 (entry as k j)

/-- R167, R168: PPWMS multiplies the one polynomial in slot ra with each of the vector at rb; PPWACC sums the pointwise
products of two vectors, the first term, then the others added in order. -/
def Obligations.VectorMultipliers : Prop :=
  ∀ (s : State) (rd ra rb : Nat) (vl : VecLen) (as bs : List Machine.Poly), bs.length = vl.count → SlotsHold s rb bs →
    SlotsFit s rb vl.count → SlotsHold s ra as →
    (as.length = 1 → SlotsFit s ra 1 → SlotsFit s rd vl.count → SameOrApart rd rb vl.count →
      (vl.count = 1 ∧ rd = ra) ∨ Apart rd vl.count ra 1 →
      WritesSlots (.ppwms rd ra rb vl) s rd vl.count 0 (fun k j => mont (entry as 0 j * entry bs k j))) ∧
    (as.length = vl.count → SlotsFit s ra vl.count → SlotsFit s rd 1 →
      (vl.count = 1 ∧ rd = ra) ∨ Apart rd 1 ra vl.count → (vl.count = 1 ∧ rd = rb) ∨ Apart rd 1 rb vl.count →
      WritesSlots (.ppwacc rd ra rb vl) s rd 1 0
        (fun _ j => dotEntry vl.count (fun c => entry as c j) (fun c => entry bs c j)))

/-- R171: PMKHINT writes the hint of each pair of coefficients, a0 from ra and a1 from rb, and RESULT is their sum. -/
def Obligations.MakeHintVector : Prop :=
  ∀ (s : State) (rd ra rb : Nat) (vl : VecLen) (as bs : List Machine.Poly),
    as.length = vl.count → bs.length = vl.count → SlotsHold s ra as → SlotsHold s rb bs →
    SlotsFit s rd vl.count → SlotsFit s ra vl.count → SlotsFit s rb vl.count →
    SameOrApart rd ra vl.count → SameOrApart rd rb vl.count →
    WritesSlots (.pmkhint rd ra rb vl) s rd vl.count
      (word ((List.range vl.count).map fun k =>
        ((List.range 256).map fun j => hintBit (entry as k j) (entry bs k j)).sum).sum)
      (fun k j => hintBit (entry as k j) (entry bs k j))

/-- R173, R174, R175: PCHKNORM writes nothing; RESULT is 1 where the bound is above (Q-1)/8 or some coefficient's absolute
value is at least the bound, and 0 otherwise. -/
def Obligations.NormCheck : Prop :=
  ∀ (s : State) (v : Args) (ra : Nat) (vl : VecLen) (ps : List Machine.Poly), s.latch = some v →
    ps.length = vl.count → SlotsHold s ra ps → SlotsFit s ra vl.count →
    ∃ r, exec (.pchknorm ra vl) s = .next (doneWith s r 0) ∧
      (r = 1 ↔ v.a0.toInt > 1047552 ∨ ∃ k j, k < vl.count ∧ j < 256 ∧ |entry ps k j| ≥ v.a0.toInt) ∧ (r = 0 ∨ r = 1)

/-! ## The transforms -/

/-- R140, R141: each entry of the zeta table is the centered representative of MONT · ROOT^brv8(k), ROOT^256 ≡ -1 (mod
Q), and 256 · F ≡ MONT^2 (mod Q) for the scaling constant F = 41978. -/
def Obligations.ZetaTable : Prop :=
  zeta 0 = 0 ∧ (∀ k ∈ List.range 256, k ≠ 0 → zeta k = zetaOf k) ∧ zetas.length = 256 ∧
  ((1753 : Int) ^ 256) % 8380417 = 8380416 ∧ invScale = 41978 ∧ (256 * 41978 - 4193792 * 4193792 : Int) % 8380417 = 0

/-- R142, R143, R144: PNTT and PINVNTT complete, and each destination slot holds what the three nested in-place loops of
the rule leave of its source slot. The model computes a level block by block (notes/assumptions/17.md). -/
def Obligations.TransformsAreTheLoops : Prop :=
  ∀ (s : State) (rd ra : Nat) (vl : VecLen) (as : List Machine.Poly),
    as.length = vl.count → SlotsHold s ra as → SlotsFit s rd vl.count → SlotsFit s ra vl.count →
    SameOrApart rd ra vl.count →
    WritesSlots (.pntt rd ra vl) s rd vl.count 0 (fun k j => (nttLoop (coeffsOf as k)).getD j 0) ∧
    WritesSlots (.pinvntt rd ra vl) s rd vl.count 0 (fun k j => (invNttLoop (coeffsOf as k)).getD j 0)

/-- The bounds of R146 and R149: if every input coefficient of ntt is at most B in magnitude and B + 8·(Q-1) < 2^31, every
output is at most B + 8·(Q-1); every output of the inverse lies in (-Q, Q), whatever the input. -/
def Obligations.TransformBounds : Prop :=
  (∀ (p : Machine.Poly) (b : Int), (∀ i, i < 256 → |p.coeff i| ≤ b) → b + 8 * 8380416 < 2147483648 →
    ∀ i, i < 256 → |(ntt p).coeff i| ≤ b + 8 * 8380416) ∧
  ∀ (p : Machine.Poly) (i : Nat), i < 256 → -8380417 < (invNtt p).coeff i ∧ (invNtt p).coeff i < 8380417

/-- The evaluation of R147, where no addition wraps (R146): ntt(a)[i] ≡ a(ROOT^(2·brv8(i) + 1)) (mod Q). -/
def Obligations.ForwardTransformEvaluates : Prop :=
  ∀ (p : Machine.Poly) (b : Int), (∀ i, i < 256 → |p.coeff i| ≤ b) → b + 8 * 8380416 < 2147483648 →
    ∀ i, i < 256 → (8380417 : Int) ∣ (ntt p).coeff i -
      ((List.range 256).map fun j => p.coeff j * (1753 : Int) ^ ((2 * brv8 i + 1) * j)).sum

/-- R148: for every a with all |a_i| < Q, the inverse of the forward transform is congruent to a_i · 2^32 (mod Q). -/
def Obligations.InverseOfForward : Prop :=
  ∀ p : Machine.Poly, (∀ i, i < 256 → |p.coeff i| < 8380417) →
    ∀ i, i < 256 → (8380417 : Int) ∣ (invNtt (ntt p)).coeff i - p.coeff i * 4294967296

/-! ## Samplers -/

/-- R203, R206, R207: SUNIF completes where each slot's stream gives 256 accepted values within what the turn draws, and
coefficient j of slot rd + k is the j-th value accepted from that slot's SHAKE128 stream, the seed being what BM holds
when the command starts and the session's copy after that (R67). How much a turn draws is the model's choice
(notes/assumptions/6.md): at least 1008 bytes. -/
def Obligations.SampleUniform : Prop :=
  ∀ (s : State) (v : Args) (rd : Nat) (vl : VecLen) (sl : SeedLen) (seed : List Byte) (n : Nat), s.latch = some v →
    seed.length = sl.bytes → SeedHeld s v.a0.toNat seed → BytesFit s v.a0.toNat sl.bytes → SlotsFit s rd vl.count →
    n ≤ 1008 → (∀ k, k < vl.count → 256 ≤ (uniformAccepted (stream .shake128 seed (nonceOf v k) n)).length) →
    WritesSlots (.sunif rd vl sl) s rd vl.count 0
      (fun k j => (uniformAccepted (stream .shake128 seed (nonceOf v k) n)).getD j 0)

/-- R208, R209, R210: SETA, likewise, from the nibbles of each slot's SHAKE256 stream. -/
def Obligations.SampleEta : Prop :=
  ∀ (s : State) (v : Args) (rd : Nat) (vl : VecLen) (sl : SeedLen) (seed : List Byte) (n : Nat), s.latch = some v →
    seed.length = sl.bytes → SeedHeld s v.a0.toNat seed → BytesFit s v.a0.toNat sl.bytes → SlotsFit s rd vl.count →
    n ≤ 1008 → (∀ k, k < vl.count → 256 ≤ (etaAccepted (stream .shake256 seed (nonceOf v k) n)).length) →
    WritesSlots (.seta rd vl sl) s rd vl.count 0
      (fun k j => (etaAccepted (stream .shake256 seed (nonceOf v k) n)).getD j 0)

/-- R211, R212: SGAMMA1 always completes: coefficient j is GAMMA1 less the j-th 20-bit field of the first 640 bytes of the
slot's SHAKE256 stream. -/
def Obligations.SampleGamma1 : Prop :=
  ∀ (s : State) (v : Args) (rd : Nat) (vl : VecLen) (sl : SeedLen) (seed : List Byte), s.latch = some v →
    seed.length = sl.bytes → BytesHold s v.a0.toNat seed → BytesFit s v.a0.toNat sl.bytes → SlotsFit s rd vl.count →
    WritesSlots (.sgamma1 rd vl sl) s rd vl.count 0
      (fun k j => 524288 - (field 20 (stream .shake256 seed (nonceOf v k) 640) j : Int))

/-- R213, R214, R215, R216: SCHAL completes where its loop ends within what the turn draws, with the coefficients the loop
leaves. -/
def Obligations.SampleChallenge : Prop :=
  ∀ (s : State) (v : Args) (rd : Nat) (sl : SeedLen) (seed : List Byte) (n : Nat) (c : List Int), s.latch = some v →
    seed.length = sl.bytes → SeedHeld s v.a0.toNat seed → BytesFit s v.a0.toNat sl.bytes → SlotsFit s rd 1 →
    n ≤ 1008 → challengeLoop (xofPrefix .shake256 seed n) = some c →
    WritesSlots (.schal rd sl) s rd 1 0 (fun _ j => c.getD j 0)

/-- R217: the ranges of the four samplers on any stream: [0, Q-1], [-2, 2], [-524287, 524288], and exactly 60
coefficients in {-1, 1} with the rest 0. -/
def Obligations.SamplerRanges : Prop :=
  ∀ (bs : List Byte) (p : Machine.Poly),
    (uniformSample bs = .ok p → ∀ j, j < 256 → 0 ≤ p.coeff j ∧ p.coeff j ≤ 8380416) ∧
    (etaSample bs = .ok p → ∀ j, j < 256 → -2 ≤ p.coeff j ∧ p.coeff j ≤ 2) ∧
    (gamma1Poly bs = p → ∀ j, j < 256 → -524287 ≤ p.coeff j ∧ p.coeff j ≤ 524288) ∧
    (challengeSample bs = .ok p →
      (∀ j, j < 256 → p.coeff j = 0 ∨ p.coeff j = 1 ∨ p.coeff j = -1) ∧
      (List.range 256).countP (fun j => p.coeff j ≠ 0) = 60)

/-- R218, R341: a rejection sampler has its polynomial exactly where its stream prefix accepts 256 values, or, for the
challenge, where its loop ends; and a command that completes on its first turn completes alike with any session open
whose message begins with the seed (R67), so how many turns came before does not change a result. That a turn draws 1008
bytes more than the last is the model's choice (notes/assumptions/6.md). -/
def Obligations.SamplerTurnsAgree : Prop :=
  (∀ bs : List Byte,
    ((∃ p, uniformSample bs = .ok p) ↔ 256 ≤ (uniformAccepted bs).length) ∧
    ((∃ p, etaSample bs = .ok p) ↔ 256 ≤ (etaAccepted bs).length) ∧
    ((∃ p, challengeSample bs = .ok p) ↔ ∃ c, challengeLoop bs = some c)) ∧
  ∀ (i : Instr) (s t : State) (v : Args) (x : XofSession), isSampler i = true → s.latch = some v →
    Memory.wf s.params s.bm → s.xof = none → exec i s = .next t → t.xof = none →
    (∀ r ∈ bytesIn s.params v i, ∀ k, k < r.2 → x.msg[k]? = s.bm.get (r.1 + k)) →
      exec i { s with xof := some x } = .next t

/-- R190, R191: MATVEC completes where each of its 56 streams gives 256 accepted values within what the turn draws. Row
k of the product is the pointwise dot product, in order, of the entries sampled with nonces 256·k + c and the source
vector, as PPWACC sums it. Only the K destination slots, RESULT, STATUS and the hidden buffers change. -/
def Obligations.MatrixVectorProduct : Prop :=
  ∀ (s : State) (v : Args) (rd ra : Nat) (sl : SeedLen) (rho : List Byte) (vec : List Machine.Poly) (n : Nat),
    s.latch = some v → rho.length = sl.bytes → SeedHeld s v.a0.toNat rho → BytesFit s v.a0.toNat sl.bytes →
    vec.length = 7 → SlotsHold s ra vec → SlotsFit s rd 8 → SlotsFit s ra 7 → Apart rd 8 ra 7 → n ≤ 1008 →
    (∀ k c, k < 8 → c < 7 → 256 ≤ (uniformAccepted (stream .shake128 rho (256 * k + c) n)).length) →
    ∃ t ps, exec (.matvec rd ra sl) s = .next t ∧
      t = { doneWith s 0 0 with pm := t.pm, bm := t.bm, matEntry := t.matEntry, matAcc := t.matAcc } ∧
      BytesSame s t ∧ ps.length = 8 ∧ SlotsBecome s t rd ps ∧
      ∀ k j, k < 8 → j < 256 → entry ps k j =
        dotEntry 7 (fun c => (uniformAccepted (stream .shake128 rho (256 * k + c) n)).getD j 0) (fun c => entry vec c j)

/-! ## Packing -/

/-- R230 to R233, R235, R237, R239, R241: the five packers complete and write n polynomials' fields, for every coefficient
value. -/
def Obligations.PackFormats : Prop :=
  ∀ (s : State) (v : Args) (ra : Nat) (vl : VecLen) (ps : List Machine.Poly), s.latch = some v →
    ps.length = vl.count → SlotsHold s ra ps → SlotsFit s ra vl.count →
    ∀ c ∈ [(Instr.pkt1 ra vl, 10, fun a : Int => a), (.pkt0 ra vl, 13, fun a => 4096 - a),
        (.pketa ra vl, 3, fun a => 2 - a), (.pkz ra vl, 20, fun a => 524288 - a), (.pkw1 ra vl, 4, fun a => a)],
      BytesFit s v.a0.toNat (vl.count * (32 * c.2.1)) →
      ∃ bs, Packed bs vl.count c.2.1 (fun k j => c.2.2 (entry ps k j)) ∧ WritesBytes c.1 s v.a0.toNat 0 bs

/-- R230 to R232, R234, R236, R238, R240: the four unpackers complete on every byte string, with the coefficient that each
field gives. -/
def Obligations.UnpackFormats : Prop :=
  ∀ (s : State) (v : Args) (rd : Nat) (vl : VecLen) (bs : List Byte), s.latch = some v →
    BytesHold s v.a0.toNat bs → BytesFit s v.a0.toNat bs.length → SlotsFit s rd vl.count →
    ∀ c ∈ [(Instr.upkt1 rd vl, 10, fun f : Int => f), (.upkt0 rd vl, 13, fun f => 4096 - f),
        (.upketa rd vl, 3, fun f => 2 - f), (.upkz rd vl, 20, fun f => 524288 - f)],
      bs.length = vl.count * (32 * c.2.1) →
      WritesSlots c.1 s rd vl.count 0 (fun k j => c.2.2 (packedField c.2.1 bs k j))

/-- The round trips of R248 for the four polynomial formats: unpacking a packed polynomial with coefficients in range
gives it back, and packing an unpacked byte string of the format's length gives it back. -/
def Obligations.PackRoundTrip : Prop :=
  ∀ (p : Machine.Poly) (bs : List Byte),
    ((∀ j, j < 256 → 0 ≤ p.coeff j ∧ p.coeff j ≤ 1023) → unpackT1 (packT1 p) = p) ∧
    ((∀ j, j < 256 → -4095 ≤ p.coeff j ∧ p.coeff j ≤ 4096) → unpackT0 (packT0 p) = p) ∧
    ((∀ j, j < 256 → -2 ≤ p.coeff j ∧ p.coeff j ≤ 2) → unpackEta (packEta p) = p) ∧
    ((∀ j, j < 256 → -524287 ≤ p.coeff j ∧ p.coeff j ≤ 524288) → unpackZ (packZ p) = p) ∧
    (bs.length = 320 → packT1 (unpackT1 bs) = bs) ∧ (bs.length = 416 → packT0 (unpackT0 bs) = bs) ∧
    (bs.length = 96 → packEta (unpackEta bs) = bs) ∧ (bs.length = 640 → packZ (unpackZ bs) = bs)

/-- R243, R244: PKHINT ends with HINT_OVERFLOW and writes nothing where more than 75 coefficients are nonzero; otherwise
it writes the table that the loops of R243 give, and RESULT is the weight. -/
def Obligations.PackHintTable : Prop :=
  ∀ (s : State) (v : Args) (ra : Nat) (h : List Machine.Poly), s.latch = some v → h.length = 8 → SlotsHold s ra h →
    SlotsFit s ra 8 → BytesFit s v.a0.toNat 83 →
    (75 < weight8 h → exec (.pkhint ra) s = .next (endedWith s .hintOverflow)) ∧
    (weight8 h ≤ 75 → ∃ bs, numbers bs = packHintLoop h ∧
      WritesBytes (.pkhint ra) s v.a0.toNat (BitVec.ofNat 32 (weight8 h)) bs)

/-- R246, R247: UPKHINT writes the rows that the loops of R246 give, with RESULT = 0; a reject is RESULT = 1, no error,
and the 8 destination slots read unwritten. -/
def Obligations.UnpackHintTable : Prop :=
  ∀ (s : State) (v : Args) (rd : Nat) (y : List Byte), s.latch = some v → y.length = 83 →
    BytesHold s v.a0.toNat y → BytesFit s v.a0.toNat 83 → SlotsFit s rd 8 →
    (∀ h, unpackHintLoop (numbers y) = some h →
      WritesSlots (.upkhint rd) s rd 8 0 (fun k j => (h.getD k []).getD j 0)) ∧
    (unpackHintLoop (numbers y) = none → ∃ t, exec (.upkhint rd) s = .next t ∧ Completes s t 1 0 ∧ BytesSame s t ∧
      ∀ x, t.pm.get x = if rd ≤ x ∧ x < rd + 8 then none else s.pm.get x)

/-- R261, R263, R265, R267: PACKPK, PACKSK and PACKSIG complete, with the buffer's fields one after the other in the
order of R261; PACKSIG ends with HINT_OVERFLOW and writes nothing where the hint weight is above 75, and RESULT is the
weight otherwise. -/
def Obligations.PackKeysAndSignature : Prop :=
  ∀ (s : State) (v : Args), s.latch = some v →
    (∀ ra rho t1, rho.length = 32 → BytesHold s v.a1.toNat rho → t1.length = 8 → SlotsHold s ra t1 → SlotsFit s ra 8 →
      BytesFit s v.a0.toNat 2592 → BytesFit s v.a1.toNat 32 → Apart v.a0.toNat 2592 v.a1.toNat 32 →
      ∃ b, Packed b 8 10 (entry t1) ∧ WritesBytes (.packpk ra) s v.a0.toNat 0 (rho ++ b)) ∧
    (∀ rd ra rb rho key tr s1 s2 t0, rho.length = 32 → BytesHold s v.a1.toNat rho → key.length = 32 →
      BytesHold s v.a2.toNat key → tr.length = s.params.trBytes → BytesHold s v.a3.toNat tr → s1.length = 7 →
      SlotsHold s ra s1 →
      s2.length = 8 → SlotsHold s rb s2 → t0.length = 8 → SlotsHold s rd t0 → SlotsFit s rd 8 → SlotsFit s ra 7 →
      SlotsFit s rb 8 →
      BytesFit s v.a0.toNat (4832 + s.params.trBytes) → BytesFit s v.a1.toNat 32 →
      BytesFit s v.a2.toNat 32 → BytesFit s v.a3.toNat s.params.trBytes →
      Apart v.a0.toNat (4832 + s.params.trBytes) v.a1.toNat 32 →
      Apart v.a0.toNat (4832 + s.params.trBytes) v.a2.toNat 32 →
      Apart v.a0.toNat (4832 + s.params.trBytes) v.a3.toNat s.params.trBytes →
      ∃ b1 b2 b0, Packed b1 7 3 (fun k j => 2 - entry s1 k j) ∧ Packed b2 8 3 (fun k j => 2 - entry s2 k j) ∧
        Packed b0 8 13 (fun k j => 4096 - entry t0 k j) ∧
        WritesBytes (.packsk rd ra rb) s v.a0.toNat 0 (rho ++ key ++ tr ++ b1 ++ b2 ++ b0)) ∧
    (∀ ra rb c z h, c.length = 32 → BytesHold s v.a1.toNat c → z.length = 7 → SlotsHold s ra z → h.length = 8 →
      SlotsHold s rb h → SlotsFit s ra 7 → SlotsFit s rb 8 → BytesFit s v.a0.toNat 4595 → BytesFit s v.a1.toNat 32 →
      Apart v.a0.toNat 4595 v.a1.toNat 32 →
      (75 < weight8 h → exec (.packsig ra rb) s = .next (endedWith s .hintOverflow)) ∧
      (weight8 h ≤ 75 → ∃ bz bh, Packed bz 7 20 (fun k j => 524288 - entry z k j) ∧ numbers bh = packHintLoop h ∧
        WritesBytes (.packsig ra rb) s v.a0.toNat (BitVec.ofNat 32 (weight8 h)) (c ++ bz ++ bh)))

/-- R261, R264, R266, R268: UNPACKPK, UNPACKSK and UNPACKSIG complete on every buffer: the raw fields to their
destinations, the vectors unpacked from their offsets; a rejected hint table is RESULT = 1 and leaves the 8 slots of h
unwritten, with c̃ and z written. -/
def Obligations.UnpackKeysAndSignature : Prop :=
  ∀ (s : State) (v : Args), s.latch = some v →
    (∀ rd pk, pk.length = 2592 → BytesHold s v.a0.toNat pk → BytesFit s v.a0.toNat 2592 → BytesFit s v.a1.toNat 32 →
      Apart v.a0.toNat 2592 v.a1.toNat 32 → SlotsFit s rd 8 →
      ∃ t ps, exec (.unpackpk rd) s = .next t ∧ Completes s t 0 0 ∧ BytesBecome s t v.a1.toNat (slice pk 0 32) ∧
        ps.length = 8 ∧ SlotsBecome s t rd ps ∧
        ∀ k j, k < 8 → j < 256 → entry ps k j = packedField 10 (slice pk 32 2560) k j) ∧
    (∀ rd ra rb sk tr, tr = s.params.trBytes → sk.length = 4832 + tr → BytesHold s v.a0.toNat sk →
      BytesFit s v.a0.toNat (4832 + tr) → BytesFit s v.a1.toNat 32 →
      BytesFit s v.a2.toNat 32 → BytesFit s v.a3.toNat tr →
      Apart v.a0.toNat (4832 + tr) v.a1.toNat 32 → Apart v.a0.toNat (4832 + tr) v.a2.toNat 32 →
      Apart v.a0.toNat (4832 + tr) v.a3.toNat tr → Apart v.a1.toNat 32 v.a2.toNat 32 →
      Apart v.a1.toNat 32 v.a3.toNat tr → Apart v.a2.toNat 32 v.a3.toNat tr → SlotsFit s rd 8 →
      SlotsFit s ra 7 → SlotsFit s rb 8 → Apart rd 8 ra 7 → Apart rd 8 rb 8 → Apart ra 7 rb 8 →
      ∃ t s1 s2 t0, exec (.unpacksk rd ra rb) s = .next t ∧ Completes s t 0 0 ∧
        (∀ b, t.bm.get b = if v.a1.toNat ≤ b ∧ b < v.a1.toNat + 32 then sk[b - v.a1.toNat]?
          else if v.a2.toNat ≤ b ∧ b < v.a2.toNat + 32 then sk[32 + (b - v.a2.toNat)]?
          else if v.a3.toNat ≤ b ∧ b < v.a3.toNat + tr then sk[64 + (b - v.a3.toNat)]? else s.bm.get b) ∧
        s1.length = 7 ∧ s2.length = 8 ∧ t0.length = 8 ∧
        (∀ y, t.pm.get y = if rd ≤ y ∧ y < rd + 8 then t0[y - rd]? else if ra ≤ y ∧ y < ra + 7 then s1[y - ra]?
          else if rb ≤ y ∧ y < rb + 8 then s2[y - rb]? else s.pm.get y) ∧
        (∀ k j, k < 7 → j < 256 → entry s1 k j = 2 - packedField 3 (slice sk (64 + tr) 672) k j) ∧
        (∀ k j, k < 8 → j < 256 → entry s2 k j = 2 - packedField 3 (slice sk (736 + tr) 768) k j) ∧
        ∀ k j, k < 8 → j < 256 → entry t0 k j = 4096 - packedField 13 (slice sk (1504 + tr) 3328) k j) ∧
    (∀ ra rb sig, sig.length = 4595 → BytesHold s v.a0.toNat sig → BytesFit s v.a0.toNat 4595 →
      BytesFit s v.a1.toNat 32 → Apart v.a0.toNat 4595 v.a1.toNat 32 → SlotsFit s ra 7 → SlotsFit s rb 8 →
      Apart ra 7 rb 8 →
      ∃ t z r, exec (.unpacksig ra rb) s = .next t ∧ Completes s t r 0 ∧ BytesBecome s t v.a1.toNat (slice sig 0 32) ∧
        z.length = 7 ∧ (∀ k j, k < 7 → j < 256 → entry z k j = 524288 - packedField 20 (slice sig 32 4480) k j) ∧
        (∀ h, unpackHintLoop (numbers (slice sig 4512 83)) = some h → r = 0 ∧ ∃ hs, hs.length = 8 ∧
          (∀ k j, k < 8 → j < 256 → entry hs k j = (h.getD k []).getD j 0) ∧
          ∀ y, t.pm.get y = if ra ≤ y ∧ y < ra + 7 then z[y - ra]? else if rb ≤ y ∧ y < rb + 8 then hs[y - rb]?
            else s.pm.get y) ∧
        (unpackHintLoop (numbers (slice sig 4512 83)) = none → r = 1 ∧
          ∀ y, t.pm.get y = if ra ≤ y ∧ y < ra + 7 then z[y - ra]? else if rb ≤ y ∧ y < rb + 8 then none
            else s.pm.get y))

/-! ## Transfers, zeroing and wipe -/

/-- R280, R281: LDPOLY loads each coefficient from its little-endian two's-complement word; STPOLY stores each
coefficient as one. -/
def Obligations.PolynomialTransfers : Prop :=
  (∀ (s : State) (v : Args) (rd : Nat) (vl : VecLen) (bs : List Byte), s.latch = some v →
    bs.length = vl.count * 1024 → BytesHold s v.a0.toNat bs → BytesFit s v.a0.toNat (vl.count * 1024) →
    SlotsFit s rd vl.count →
    WritesSlots (.ldpoly rd vl) s rd vl.count 0 (fun k j => low (value (slice bs (1024 * k + 4 * j) 4)))) ∧
  ∀ (s : State) (v : Args) (ra : Nat) (vl : VecLen) (ps : List Machine.Poly), s.latch = some v → ps.length = vl.count →
    SlotsHold s ra ps → SlotsFit s ra vl.count → BytesFit s v.a0.toNat (vl.count * 1024) →
    ∃ bs, bs.length = vl.count * 1024 ∧
      (∀ k j, k < vl.count → j < 256 → (value (slice bs (1024 * k + 4 * j) 4) : Int) = entry ps k j % 4294967296) ∧
      WritesBytes (.stpoly ra vl) s v.a0.toNat 0 bs

/-- R282, R283, R284: PZERO zeroes its slots, BZERO its bytes (none where the length is 0), and WIPE every slot, every
byte and the MATVEC buffers; nothing else changes, and no CSR but through completion. -/
def Obligations.ZeroingCommands : Prop :=
  ∀ (s : State) (v : Args), s.latch = some v →
    (∀ (rd : Nat) (vl : VecLen), SlotsFit s rd vl.count →
      WritesSlots (.pzero rd vl) s rd vl.count 0 (fun _ _ => 0)) ∧
    (BytesFit s v.a0.toNat v.a1.toNat →
      WritesBytes .bzero s v.a0.toNat 0 (List.replicate v.a1.toNat 0)) ∧
    (PolyMem.wf s.params s.pm → Memory.wf s.params s.bm → ∃ t, exec .wipe s = .next t ∧
      t = { doneWith s 0 0 with pm := t.pm, bm := t.bm, matEntry := t.matEntry, matAcc := t.matAcc } ∧
      (∀ x, x < s.params.nslot → ∃ p, t.pm.get x = some p ∧ ∀ j, j < 256 → p.coeff j = 0) ∧
      (∀ a, a < s.params.bmSize → t.bm.get a = some 0) ∧ (∀ x, s.params.nslot ≤ x → t.pm.get x = none) ∧
      (∀ a, s.params.bmSize ≤ a → t.bm.get a = none) ∧
      ∀ j, j < 256 → t.matEntry.coeff j = 0 ∧ t.matAcc.coeff j = 0)

end
end

