-- ==== Sys2Proof/Laws/State.lean ====
section
/-! SUPPORT. One lemma for each field of the state and each update of it, true by rfl: a later proof rewrites with these and
unfolds no record update. -/

namespace Sys2Proof.Machine

@[simp] theorem State.writeSlots_params (s : State) (x : Nat) (ps : List Poly) : (s.writeSlots x ps).params = s.params := rfl
@[simp] theorem State.writeSlots_pm (s : State) (x : Nat) (ps : List Poly) : (s.writeSlots x ps).pm = s.pm.setRange x ps := rfl
@[simp] theorem State.writeSlots_bm (s : State) (x : Nat) (ps : List Poly) : (s.writeSlots x ps).bm = s.bm := rfl
@[simp] theorem State.writeSlots_cmd (s : State) (x : Nat) (ps : List Poly) : (s.writeSlots x ps).cmd = s.cmd := rfl
@[simp] theorem State.writeSlots_seq (s : State) (x : Nat) (ps : List Poly) : (s.writeSlots x ps).seq = s.seq := rfl
@[simp] theorem State.writeSlots_done (s : State) (x : Nat) (ps : List Poly) : (s.writeSlots x ps).done = s.done := rfl
@[simp] theorem State.writeSlots_err (s : State) (x : Nat) (ps : List Poly) : (s.writeSlots x ps).err = s.err := rfl
@[simp] theorem State.writeSlots_ovr (s : State) (x : Nat) (ps : List Poly) : (s.writeSlots x ps).ovr = s.ovr := rfl
@[simp] theorem State.writeSlots_errcode (s : State) (x : Nat) (ps : List Poly) : (s.writeSlots x ps).errcode = s.errcode := rfl
@[simp] theorem State.writeSlots_ie (s : State) (x : Nat) (ps : List Poly) : (s.writeSlots x ps).ie = s.ie := rfl
@[simp] theorem State.writeSlots_result (s : State) (x : Nat) (ps : List Poly) : (s.writeSlots x ps).result = s.result := rfl
@[simp] theorem State.writeSlots_result1 (s : State) (x : Nat) (ps : List Poly) : (s.writeSlots x ps).result1 = s.result1 := rfl
@[simp] theorem State.writeSlots_args (s : State) (x : Nat) (ps : List Poly) : (s.writeSlots x ps).args = s.args := rfl
@[simp] theorem State.writeSlots_latch (s : State) (x : Nat) (ps : List Poly) : (s.writeSlots x ps).latch = s.latch := rfl
@[simp] theorem State.writeSlots_xof (s : State) (x : Nat) (ps : List Poly) : (s.writeSlots x ps).xof = s.xof := rfl
@[simp] theorem State.writeSlots_matEntry (s : State) (x : Nat) (ps : List Poly) : (s.writeSlots x ps).matEntry = s.matEntry := rfl
@[simp] theorem State.writeSlots_matAcc (s : State) (x : Nat) (ps : List Poly) : (s.writeSlots x ps).matAcc = s.matAcc := rfl
@[simp] theorem State.writeSlots_host (s : State) (x : Nat) (ps : List Poly) : (s.writeSlots x ps).host = s.host := rfl
@[simp] theorem State.writeSlots_turns (s : State) (x : Nat) (ps : List Poly) : (s.writeSlots x ps).turns = s.turns := rfl
@[simp] theorem State.writeSlots_freeCount (s : State) (x : Nat) (ps : List Poly) : (s.writeSlots x ps).freeCount = s.freeCount := rfl
@[simp] theorem State.writeSlots_argv (s : State) (x : Nat) (ps : List Poly) : (s.writeSlots x ps).argv = s.argv := rfl

@[simp] theorem State.writeBytes_params (s : State) (a : Nat) (bs : List Byte) : (s.writeBytes a bs).params = s.params := rfl
@[simp] theorem State.writeBytes_pm (s : State) (a : Nat) (bs : List Byte) : (s.writeBytes a bs).pm = s.pm := rfl
@[simp] theorem State.writeBytes_bm (s : State) (a : Nat) (bs : List Byte) : (s.writeBytes a bs).bm = s.bm.setRange a bs := rfl
@[simp] theorem State.writeBytes_cmd (s : State) (a : Nat) (bs : List Byte) : (s.writeBytes a bs).cmd = s.cmd := rfl
@[simp] theorem State.writeBytes_seq (s : State) (a : Nat) (bs : List Byte) : (s.writeBytes a bs).seq = s.seq := rfl
@[simp] theorem State.writeBytes_done (s : State) (a : Nat) (bs : List Byte) : (s.writeBytes a bs).done = s.done := rfl
@[simp] theorem State.writeBytes_err (s : State) (a : Nat) (bs : List Byte) : (s.writeBytes a bs).err = s.err := rfl
@[simp] theorem State.writeBytes_ovr (s : State) (a : Nat) (bs : List Byte) : (s.writeBytes a bs).ovr = s.ovr := rfl
@[simp] theorem State.writeBytes_errcode (s : State) (a : Nat) (bs : List Byte) : (s.writeBytes a bs).errcode = s.errcode := rfl
@[simp] theorem State.writeBytes_ie (s : State) (a : Nat) (bs : List Byte) : (s.writeBytes a bs).ie = s.ie := rfl
@[simp] theorem State.writeBytes_result (s : State) (a : Nat) (bs : List Byte) : (s.writeBytes a bs).result = s.result := rfl
@[simp] theorem State.writeBytes_result1 (s : State) (a : Nat) (bs : List Byte) : (s.writeBytes a bs).result1 = s.result1 := rfl
@[simp] theorem State.writeBytes_args (s : State) (a : Nat) (bs : List Byte) : (s.writeBytes a bs).args = s.args := rfl
@[simp] theorem State.writeBytes_latch (s : State) (a : Nat) (bs : List Byte) : (s.writeBytes a bs).latch = s.latch := rfl
@[simp] theorem State.writeBytes_xof (s : State) (a : Nat) (bs : List Byte) : (s.writeBytes a bs).xof = s.xof := rfl
@[simp] theorem State.writeBytes_matEntry (s : State) (a : Nat) (bs : List Byte) : (s.writeBytes a bs).matEntry = s.matEntry := rfl
@[simp] theorem State.writeBytes_matAcc (s : State) (a : Nat) (bs : List Byte) : (s.writeBytes a bs).matAcc = s.matAcc := rfl
@[simp] theorem State.writeBytes_host (s : State) (a : Nat) (bs : List Byte) : (s.writeBytes a bs).host = s.host := rfl
@[simp] theorem State.writeBytes_turns (s : State) (a : Nat) (bs : List Byte) : (s.writeBytes a bs).turns = s.turns := rfl
@[simp] theorem State.writeBytes_freeCount (s : State) (a : Nat) (bs : List Byte) : (s.writeBytes a bs).freeCount = s.freeCount := rfl
@[simp] theorem State.writeBytes_argv (s : State) (a : Nat) (bs : List Byte) : (s.writeBytes a bs).argv = s.argv := rfl

@[simp] theorem State.clearSlots_params (s : State) (x n : Nat) : (s.clearSlots x n).params = s.params := rfl
@[simp] theorem State.clearSlots_pm (s : State) (x n : Nat) : (s.clearSlots x n).pm = s.pm.clearRange x n := rfl
@[simp] theorem State.clearSlots_bm (s : State) (x n : Nat) : (s.clearSlots x n).bm = s.bm := rfl
@[simp] theorem State.clearSlots_cmd (s : State) (x n : Nat) : (s.clearSlots x n).cmd = s.cmd := rfl
@[simp] theorem State.clearSlots_seq (s : State) (x n : Nat) : (s.clearSlots x n).seq = s.seq := rfl
@[simp] theorem State.clearSlots_done (s : State) (x n : Nat) : (s.clearSlots x n).done = s.done := rfl
@[simp] theorem State.clearSlots_err (s : State) (x n : Nat) : (s.clearSlots x n).err = s.err := rfl
@[simp] theorem State.clearSlots_ovr (s : State) (x n : Nat) : (s.clearSlots x n).ovr = s.ovr := rfl
@[simp] theorem State.clearSlots_errcode (s : State) (x n : Nat) : (s.clearSlots x n).errcode = s.errcode := rfl
@[simp] theorem State.clearSlots_ie (s : State) (x n : Nat) : (s.clearSlots x n).ie = s.ie := rfl
@[simp] theorem State.clearSlots_result (s : State) (x n : Nat) : (s.clearSlots x n).result = s.result := rfl
@[simp] theorem State.clearSlots_result1 (s : State) (x n : Nat) : (s.clearSlots x n).result1 = s.result1 := rfl
@[simp] theorem State.clearSlots_args (s : State) (x n : Nat) : (s.clearSlots x n).args = s.args := rfl
@[simp] theorem State.clearSlots_latch (s : State) (x n : Nat) : (s.clearSlots x n).latch = s.latch := rfl
@[simp] theorem State.clearSlots_xof (s : State) (x n : Nat) : (s.clearSlots x n).xof = s.xof := rfl
@[simp] theorem State.clearSlots_matEntry (s : State) (x n : Nat) : (s.clearSlots x n).matEntry = s.matEntry := rfl
@[simp] theorem State.clearSlots_matAcc (s : State) (x n : Nat) : (s.clearSlots x n).matAcc = s.matAcc := rfl
@[simp] theorem State.clearSlots_host (s : State) (x n : Nat) : (s.clearSlots x n).host = s.host := rfl
@[simp] theorem State.clearSlots_turns (s : State) (x n : Nat) : (s.clearSlots x n).turns = s.turns := rfl
@[simp] theorem State.clearSlots_freeCount (s : State) (x n : Nat) : (s.clearSlots x n).freeCount = s.freeCount := rfl
@[simp] theorem State.clearSlots_argv (s : State) (x n : Nat) : (s.clearSlots x n).argv = s.argv := rfl

@[simp] theorem State.clearBytes_params (s : State) (a n : Nat) : (s.clearBytes a n).params = s.params := rfl
@[simp] theorem State.clearBytes_pm (s : State) (a n : Nat) : (s.clearBytes a n).pm = s.pm := rfl
@[simp] theorem State.clearBytes_bm (s : State) (a n : Nat) : (s.clearBytes a n).bm = s.bm.clearRange a n := rfl
@[simp] theorem State.clearBytes_cmd (s : State) (a n : Nat) : (s.clearBytes a n).cmd = s.cmd := rfl
@[simp] theorem State.clearBytes_seq (s : State) (a n : Nat) : (s.clearBytes a n).seq = s.seq := rfl
@[simp] theorem State.clearBytes_done (s : State) (a n : Nat) : (s.clearBytes a n).done = s.done := rfl
@[simp] theorem State.clearBytes_err (s : State) (a n : Nat) : (s.clearBytes a n).err = s.err := rfl
@[simp] theorem State.clearBytes_ovr (s : State) (a n : Nat) : (s.clearBytes a n).ovr = s.ovr := rfl
@[simp] theorem State.clearBytes_errcode (s : State) (a n : Nat) : (s.clearBytes a n).errcode = s.errcode := rfl
@[simp] theorem State.clearBytes_ie (s : State) (a n : Nat) : (s.clearBytes a n).ie = s.ie := rfl
@[simp] theorem State.clearBytes_result (s : State) (a n : Nat) : (s.clearBytes a n).result = s.result := rfl
@[simp] theorem State.clearBytes_result1 (s : State) (a n : Nat) : (s.clearBytes a n).result1 = s.result1 := rfl
@[simp] theorem State.clearBytes_args (s : State) (a n : Nat) : (s.clearBytes a n).args = s.args := rfl
@[simp] theorem State.clearBytes_latch (s : State) (a n : Nat) : (s.clearBytes a n).latch = s.latch := rfl
@[simp] theorem State.clearBytes_xof (s : State) (a n : Nat) : (s.clearBytes a n).xof = s.xof := rfl
@[simp] theorem State.clearBytes_matEntry (s : State) (a n : Nat) : (s.clearBytes a n).matEntry = s.matEntry := rfl
@[simp] theorem State.clearBytes_matAcc (s : State) (a n : Nat) : (s.clearBytes a n).matAcc = s.matAcc := rfl
@[simp] theorem State.clearBytes_host (s : State) (a n : Nat) : (s.clearBytes a n).host = s.host := rfl
@[simp] theorem State.clearBytes_turns (s : State) (a n : Nat) : (s.clearBytes a n).turns = s.turns := rfl
@[simp] theorem State.clearBytes_freeCount (s : State) (a n : Nat) : (s.clearBytes a n).freeCount = s.freeCount := rfl
@[simp] theorem State.clearBytes_argv (s : State) (a n : Nat) : (s.clearBytes a n).argv = s.argv := rfl

@[simp] theorem State.issue_params (s : State) (w : Word) : (s.issue w).params = s.params := rfl
@[simp] theorem State.issue_pm (s : State) (w : Word) : (s.issue w).pm = s.pm := rfl
@[simp] theorem State.issue_bm (s : State) (w : Word) : (s.issue w).bm = s.bm := rfl
@[simp] theorem State.issue_cmd (s : State) (w : Word) : (s.issue w).cmd = w := rfl
@[simp] theorem State.issue_seq (s : State) (w : Word) : (s.issue w).seq = .run := rfl
@[simp] theorem State.issue_done (s : State) (w : Word) : (s.issue w).done = false := rfl
@[simp] theorem State.issue_err (s : State) (w : Word) : (s.issue w).err = false := rfl
@[simp] theorem State.issue_ovr (s : State) (w : Word) : (s.issue w).ovr = s.ovr := rfl
@[simp] theorem State.issue_errcode (s : State) (w : Word) : (s.issue w).errcode = .noError := rfl
@[simp] theorem State.issue_ie (s : State) (w : Word) : (s.issue w).ie = s.ie := rfl
@[simp] theorem State.issue_result (s : State) (w : Word) : (s.issue w).result = s.result := rfl
@[simp] theorem State.issue_result1 (s : State) (w : Word) : (s.issue w).result1 = s.result1 := rfl
@[simp] theorem State.issue_args (s : State) (w : Word) : (s.issue w).args = s.args := rfl
@[simp] theorem State.issue_latch (s : State) (w : Word) : (s.issue w).latch = some s.args := rfl
@[simp] theorem State.issue_xof (s : State) (w : Word) : (s.issue w).xof = s.xof := rfl
@[simp] theorem State.issue_matEntry (s : State) (w : Word) : (s.issue w).matEntry = s.matEntry := rfl
@[simp] theorem State.issue_matAcc (s : State) (w : Word) : (s.issue w).matAcc = s.matAcc := rfl
@[simp] theorem State.issue_host (s : State) (w : Word) : (s.issue w).host = s.host := rfl
@[simp] theorem State.issue_turns (s : State) (w : Word) : (s.issue w).turns = s.turns := rfl
@[simp] theorem State.issue_freeCount (s : State) (w : Word) : (s.issue w).freeCount = s.freeCount := rfl

@[simp] theorem State.complete_params (s : State) (r r1 : Word) : (s.complete r r1).params = s.params := rfl
@[simp] theorem State.complete_pm (s : State) (r r1 : Word) : (s.complete r r1).pm = s.pm := rfl
@[simp] theorem State.complete_bm (s : State) (r r1 : Word) : (s.complete r r1).bm = s.bm := rfl
@[simp] theorem State.complete_cmd (s : State) (r r1 : Word) : (s.complete r r1).cmd = s.cmd := rfl
@[simp] theorem State.complete_seq (s : State) (r r1 : Word) : (s.complete r r1).seq = .idle := rfl
@[simp] theorem State.complete_done (s : State) (r r1 : Word) : (s.complete r r1).done = true := rfl
@[simp] theorem State.complete_err (s : State) (r r1 : Word) : (s.complete r r1).err = s.err := rfl
@[simp] theorem State.complete_ovr (s : State) (r r1 : Word) : (s.complete r r1).ovr = s.ovr := rfl
@[simp] theorem State.complete_errcode (s : State) (r r1 : Word) : (s.complete r r1).errcode = s.errcode := rfl
@[simp] theorem State.complete_ie (s : State) (r r1 : Word) : (s.complete r r1).ie = s.ie := rfl
@[simp] theorem State.complete_result (s : State) (r r1 : Word) : (s.complete r r1).result = r := rfl
@[simp] theorem State.complete_result1 (s : State) (r r1 : Word) : (s.complete r r1).result1 = r1 := rfl
@[simp] theorem State.complete_args (s : State) (r r1 : Word) : (s.complete r r1).args = s.args := rfl
@[simp] theorem State.complete_latch (s : State) (r r1 : Word) : (s.complete r r1).latch = s.latch := rfl
@[simp] theorem State.complete_xof (s : State) (r r1 : Word) : (s.complete r r1).xof = none := rfl
@[simp] theorem State.complete_matEntry (s : State) (r r1 : Word) : (s.complete r r1).matEntry = s.matEntry := rfl
@[simp] theorem State.complete_matAcc (s : State) (r r1 : Word) : (s.complete r r1).matAcc = s.matAcc := rfl
@[simp] theorem State.complete_host (s : State) (r r1 : Word) : (s.complete r r1).host = s.host := rfl
@[simp] theorem State.complete_turns (s : State) (r r1 : Word) : (s.complete r r1).turns = s.turns := rfl
@[simp] theorem State.complete_freeCount (s : State) (r r1 : Word) : (s.complete r r1).freeCount = s.freeCount := rfl
@[simp] theorem State.complete_argv (s : State) (r r1 : Word) : (s.complete r r1).argv = s.argv := rfl

@[simp] theorem State.endWithError_params (s : State) (e : ErrCode) : (s.endWithError e).params = s.params := rfl
@[simp] theorem State.endWithError_pm (s : State) (e : ErrCode) : (s.endWithError e).pm = s.pm := rfl
@[simp] theorem State.endWithError_bm (s : State) (e : ErrCode) : (s.endWithError e).bm = s.bm := rfl
@[simp] theorem State.endWithError_cmd (s : State) (e : ErrCode) : (s.endWithError e).cmd = s.cmd := rfl
@[simp] theorem State.endWithError_seq (s : State) (e : ErrCode) : (s.endWithError e).seq = .idle := rfl
@[simp] theorem State.endWithError_done (s : State) (e : ErrCode) : (s.endWithError e).done = true := rfl
@[simp] theorem State.endWithError_err (s : State) (e : ErrCode) : (s.endWithError e).err = true := rfl
@[simp] theorem State.endWithError_ovr (s : State) (e : ErrCode) : (s.endWithError e).ovr = s.ovr := rfl
@[simp] theorem State.endWithError_errcode (s : State) (e : ErrCode) : (s.endWithError e).errcode = e := rfl
@[simp] theorem State.endWithError_ie (s : State) (e : ErrCode) : (s.endWithError e).ie = s.ie := rfl
@[simp] theorem State.endWithError_result (s : State) (e : ErrCode) : (s.endWithError e).result = 0 := rfl
@[simp] theorem State.endWithError_result1 (s : State) (e : ErrCode) : (s.endWithError e).result1 = 0 := rfl
@[simp] theorem State.endWithError_args (s : State) (e : ErrCode) : (s.endWithError e).args = s.args := rfl
@[simp] theorem State.endWithError_latch (s : State) (e : ErrCode) : (s.endWithError e).latch = s.latch := rfl
@[simp] theorem State.endWithError_xof (s : State) (e : ErrCode) : (s.endWithError e).xof = none := rfl
@[simp] theorem State.endWithError_matEntry (s : State) (e : ErrCode) : (s.endWithError e).matEntry = s.matEntry := rfl
@[simp] theorem State.endWithError_matAcc (s : State) (e : ErrCode) : (s.endWithError e).matAcc = s.matAcc := rfl
@[simp] theorem State.endWithError_host (s : State) (e : ErrCode) : (s.endWithError e).host = s.host := rfl
@[simp] theorem State.endWithError_turns (s : State) (e : ErrCode) : (s.endWithError e).turns = s.turns := rfl
@[simp] theorem State.endWithError_freeCount (s : State) (e : ErrCode) : (s.endWithError e).freeCount = s.freeCount := rfl
@[simp] theorem State.endWithError_argv (s : State) (e : ErrCode) : (s.endWithError e).argv = s.argv := rfl

@[simp] theorem State.writeStatus_params (s : State) (v : Word) : (s.writeStatus v).params = s.params := rfl
@[simp] theorem State.writeStatus_pm (s : State) (v : Word) : (s.writeStatus v).pm = s.pm := rfl
@[simp] theorem State.writeStatus_bm (s : State) (v : Word) : (s.writeStatus v).bm = s.bm := rfl
@[simp] theorem State.writeStatus_cmd (s : State) (v : Word) : (s.writeStatus v).cmd = s.cmd := rfl
@[simp] theorem State.writeStatus_seq (s : State) (v : Word) : (s.writeStatus v).seq = s.seq := rfl
@[simp] theorem State.writeStatus_done (s : State) (v : Word) : (s.writeStatus v).done = (s.done && !v.getLsbD 1) := rfl
@[simp] theorem State.writeStatus_err (s : State) (v : Word) : (s.writeStatus v).err = (s.err && !v.getLsbD 2) := rfl
@[simp] theorem State.writeStatus_ovr (s : State) (v : Word) : (s.writeStatus v).ovr = (s.ovr && !v.getLsbD 3) := rfl
@[simp] theorem State.writeStatus_errcode (s : State) (v : Word) : (s.writeStatus v).errcode = if v.getLsbD 2 then .noError else s.errcode := rfl
@[simp] theorem State.writeStatus_ie (s : State) (v : Word) : (s.writeStatus v).ie = s.ie := rfl
@[simp] theorem State.writeStatus_result (s : State) (v : Word) : (s.writeStatus v).result = s.result := rfl
@[simp] theorem State.writeStatus_result1 (s : State) (v : Word) : (s.writeStatus v).result1 = s.result1 := rfl
@[simp] theorem State.writeStatus_args (s : State) (v : Word) : (s.writeStatus v).args = s.args := rfl
@[simp] theorem State.writeStatus_latch (s : State) (v : Word) : (s.writeStatus v).latch = s.latch := rfl
@[simp] theorem State.writeStatus_xof (s : State) (v : Word) : (s.writeStatus v).xof = s.xof := rfl
@[simp] theorem State.writeStatus_matEntry (s : State) (v : Word) : (s.writeStatus v).matEntry = s.matEntry := rfl
@[simp] theorem State.writeStatus_matAcc (s : State) (v : Word) : (s.writeStatus v).matAcc = s.matAcc := rfl
@[simp] theorem State.writeStatus_host (s : State) (v : Word) : (s.writeStatus v).host = s.host := rfl
@[simp] theorem State.writeStatus_turns (s : State) (v : Word) : (s.writeStatus v).turns = s.turns := rfl
@[simp] theorem State.writeStatus_freeCount (s : State) (v : Word) : (s.writeStatus v).freeCount = s.freeCount := rfl

@[simp] theorem State.warmReset_params (s : State) : s.warmReset.params = s.params := rfl
@[simp] theorem State.warmReset_pm (s : State) : s.warmReset.pm = State.reset.pm := rfl
@[simp] theorem State.warmReset_bm (s : State) : s.warmReset.bm = State.reset.bm := rfl
@[simp] theorem State.warmReset_cmd (s : State) : s.warmReset.cmd = State.reset.cmd := rfl
@[simp] theorem State.warmReset_seq (s : State) : s.warmReset.seq = State.reset.seq := rfl
@[simp] theorem State.warmReset_done (s : State) : s.warmReset.done = State.reset.done := rfl
@[simp] theorem State.warmReset_err (s : State) : s.warmReset.err = State.reset.err := rfl
@[simp] theorem State.warmReset_ovr (s : State) : s.warmReset.ovr = State.reset.ovr := rfl
@[simp] theorem State.warmReset_errcode (s : State) : s.warmReset.errcode = State.reset.errcode := rfl
@[simp] theorem State.warmReset_ie (s : State) : s.warmReset.ie = State.reset.ie := rfl
@[simp] theorem State.warmReset_result (s : State) : s.warmReset.result = State.reset.result := rfl
@[simp] theorem State.warmReset_result1 (s : State) : s.warmReset.result1 = State.reset.result1 := rfl
@[simp] theorem State.warmReset_args (s : State) : s.warmReset.args = State.reset.args := rfl
@[simp] theorem State.warmReset_latch (s : State) : s.warmReset.latch = State.reset.latch := rfl
@[simp] theorem State.warmReset_xof (s : State) : s.warmReset.xof = State.reset.xof := rfl
@[simp] theorem State.warmReset_matEntry (s : State) : s.warmReset.matEntry = State.reset.matEntry := rfl
@[simp] theorem State.warmReset_matAcc (s : State) : s.warmReset.matAcc = State.reset.matAcc := rfl
@[simp] theorem State.warmReset_host (s : State) : s.warmReset.host = s.host := rfl
@[simp] theorem State.warmReset_turns (s : State) : s.warmReset.turns = s.turns := rfl
@[simp] theorem State.warmReset_freeCount (s : State) : s.warmReset.freeCount = s.freeCount := rfl

@[simp] theorem State.hostGoto_params (s : State) (t : Nat) : (s.hostGoto t).params = s.params := rfl
@[simp] theorem State.hostGoto_pm (s : State) (t : Nat) : (s.hostGoto t).pm = s.pm := rfl
@[simp] theorem State.hostGoto_bm (s : State) (t : Nat) : (s.hostGoto t).bm = s.bm := rfl
@[simp] theorem State.hostGoto_cmd (s : State) (t : Nat) : (s.hostGoto t).cmd = s.cmd := rfl
@[simp] theorem State.hostGoto_seq (s : State) (t : Nat) : (s.hostGoto t).seq = s.seq := rfl
@[simp] theorem State.hostGoto_done (s : State) (t : Nat) : (s.hostGoto t).done = s.done := rfl
@[simp] theorem State.hostGoto_err (s : State) (t : Nat) : (s.hostGoto t).err = s.err := rfl
@[simp] theorem State.hostGoto_ovr (s : State) (t : Nat) : (s.hostGoto t).ovr = s.ovr := rfl
@[simp] theorem State.hostGoto_errcode (s : State) (t : Nat) : (s.hostGoto t).errcode = s.errcode := rfl
@[simp] theorem State.hostGoto_ie (s : State) (t : Nat) : (s.hostGoto t).ie = s.ie := rfl
@[simp] theorem State.hostGoto_result (s : State) (t : Nat) : (s.hostGoto t).result = s.result := rfl
@[simp] theorem State.hostGoto_result1 (s : State) (t : Nat) : (s.hostGoto t).result1 = s.result1 := rfl
@[simp] theorem State.hostGoto_args (s : State) (t : Nat) : (s.hostGoto t).args = s.args := rfl
@[simp] theorem State.hostGoto_latch (s : State) (t : Nat) : (s.hostGoto t).latch = s.latch := rfl
@[simp] theorem State.hostGoto_xof (s : State) (t : Nat) : (s.hostGoto t).xof = s.xof := rfl
@[simp] theorem State.hostGoto_matEntry (s : State) (t : Nat) : (s.hostGoto t).matEntry = s.matEntry := rfl
@[simp] theorem State.hostGoto_matAcc (s : State) (t : Nat) : (s.hostGoto t).matAcc = s.matAcc := rfl
@[simp] theorem State.hostGoto_host (s : State) (t : Nat) : (s.hostGoto t).host = { s.host with pc := t } := rfl
@[simp] theorem State.hostGoto_turns (s : State) (t : Nat) : (s.hostGoto t).turns = s.turns := rfl
@[simp] theorem State.hostGoto_freeCount (s : State) (t : Nat) : (s.hostGoto t).freeCount = s.freeCount := rfl

@[simp] theorem State.setHostReg_params (s : State) (h : Fin 8) (v : Word) : (s.setHostReg h v).params = s.params := rfl
@[simp] theorem State.setHostReg_pm (s : State) (h : Fin 8) (v : Word) : (s.setHostReg h v).pm = s.pm := rfl
@[simp] theorem State.setHostReg_bm (s : State) (h : Fin 8) (v : Word) : (s.setHostReg h v).bm = s.bm := rfl
@[simp] theorem State.setHostReg_cmd (s : State) (h : Fin 8) (v : Word) : (s.setHostReg h v).cmd = s.cmd := rfl
@[simp] theorem State.setHostReg_seq (s : State) (h : Fin 8) (v : Word) : (s.setHostReg h v).seq = s.seq := rfl
@[simp] theorem State.setHostReg_done (s : State) (h : Fin 8) (v : Word) : (s.setHostReg h v).done = s.done := rfl
@[simp] theorem State.setHostReg_err (s : State) (h : Fin 8) (v : Word) : (s.setHostReg h v).err = s.err := rfl
@[simp] theorem State.setHostReg_ovr (s : State) (h : Fin 8) (v : Word) : (s.setHostReg h v).ovr = s.ovr := rfl
@[simp] theorem State.setHostReg_errcode (s : State) (h : Fin 8) (v : Word) : (s.setHostReg h v).errcode = s.errcode := rfl
@[simp] theorem State.setHostReg_ie (s : State) (h : Fin 8) (v : Word) : (s.setHostReg h v).ie = s.ie := rfl
@[simp] theorem State.setHostReg_result (s : State) (h : Fin 8) (v : Word) : (s.setHostReg h v).result = s.result := rfl
@[simp] theorem State.setHostReg_result1 (s : State) (h : Fin 8) (v : Word) : (s.setHostReg h v).result1 = s.result1 := rfl
@[simp] theorem State.setHostReg_args (s : State) (h : Fin 8) (v : Word) : (s.setHostReg h v).args = s.args := rfl
@[simp] theorem State.setHostReg_latch (s : State) (h : Fin 8) (v : Word) : (s.setHostReg h v).latch = s.latch := rfl
@[simp] theorem State.setHostReg_xof (s : State) (h : Fin 8) (v : Word) : (s.setHostReg h v).xof = s.xof := rfl
@[simp] theorem State.setHostReg_matEntry (s : State) (h : Fin 8) (v : Word) : (s.setHostReg h v).matEntry = s.matEntry := rfl
@[simp] theorem State.setHostReg_matAcc (s : State) (h : Fin 8) (v : Word) : (s.setHostReg h v).matAcc = s.matAcc := rfl
@[simp] theorem State.setHostReg_host (s : State) (h : Fin 8) (v : Word) : (s.setHostReg h v).host = { s.host with regs := s.host.regs.set h v } := rfl
@[simp] theorem State.setHostReg_turns (s : State) (h : Fin 8) (v : Word) : (s.setHostReg h v).turns = s.turns := rfl
@[simp] theorem State.setHostReg_freeCount (s : State) (h : Fin 8) (v : Word) : (s.setHostReg h v).freeCount = s.freeCount := rfl

@[simp] theorem State.popTurn_params (s : State) : s.popTurn.params = s.params := rfl
@[simp] theorem State.popTurn_pm (s : State) : s.popTurn.pm = s.pm := rfl
@[simp] theorem State.popTurn_bm (s : State) : s.popTurn.bm = s.bm := rfl
@[simp] theorem State.popTurn_cmd (s : State) : s.popTurn.cmd = s.cmd := rfl
@[simp] theorem State.popTurn_seq (s : State) : s.popTurn.seq = s.seq := rfl
@[simp] theorem State.popTurn_done (s : State) : s.popTurn.done = s.done := rfl
@[simp] theorem State.popTurn_err (s : State) : s.popTurn.err = s.err := rfl
@[simp] theorem State.popTurn_ovr (s : State) : s.popTurn.ovr = s.ovr := rfl
@[simp] theorem State.popTurn_errcode (s : State) : s.popTurn.errcode = s.errcode := rfl
@[simp] theorem State.popTurn_ie (s : State) : s.popTurn.ie = s.ie := rfl
@[simp] theorem State.popTurn_result (s : State) : s.popTurn.result = s.result := rfl
@[simp] theorem State.popTurn_result1 (s : State) : s.popTurn.result1 = s.result1 := rfl
@[simp] theorem State.popTurn_args (s : State) : s.popTurn.args = s.args := rfl
@[simp] theorem State.popTurn_latch (s : State) : s.popTurn.latch = s.latch := rfl
@[simp] theorem State.popTurn_xof (s : State) : s.popTurn.xof = s.xof := rfl
@[simp] theorem State.popTurn_matEntry (s : State) : s.popTurn.matEntry = s.matEntry := rfl
@[simp] theorem State.popTurn_matAcc (s : State) : s.popTurn.matAcc = s.matAcc := rfl
@[simp] theorem State.popTurn_host (s : State) : s.popTurn.host = s.host := rfl
@[simp] theorem State.popTurn_turns (s : State) : s.popTurn.turns = s.turns.tail := rfl
@[simp] theorem State.popTurn_freeCount (s : State) : s.popTurn.freeCount = s.freeCount := rfl
@[simp] theorem State.popTurn_argv (s : State) : s.popTurn.argv = s.argv := rfl

@[simp] theorem State.latchAndRun_params (s : State) (w : Word) : (s.latchAndRun w).params = s.params := rfl
@[simp] theorem State.latchAndRun_pm (s : State) (w : Word) : (s.latchAndRun w).pm = s.pm := rfl
@[simp] theorem State.latchAndRun_bm (s : State) (w : Word) : (s.latchAndRun w).bm = s.bm := rfl
@[simp] theorem State.latchAndRun_cmd (s : State) (w : Word) : (s.latchAndRun w).cmd = w := rfl
@[simp] theorem State.latchAndRun_seq (s : State) (w : Word) : (s.latchAndRun w).seq = .run := rfl
@[simp] theorem State.latchAndRun_done (s : State) (w : Word) : (s.latchAndRun w).done = false := rfl
@[simp] theorem State.latchAndRun_err (s : State) (w : Word) : (s.latchAndRun w).err = false := rfl
@[simp] theorem State.latchAndRun_ovr (s : State) (w : Word) : (s.latchAndRun w).ovr = s.ovr := rfl
@[simp] theorem State.latchAndRun_errcode (s : State) (w : Word) : (s.latchAndRun w).errcode = .noError := rfl
@[simp] theorem State.latchAndRun_ie (s : State) (w : Word) : (s.latchAndRun w).ie = s.ie := rfl
@[simp] theorem State.latchAndRun_result (s : State) (w : Word) : (s.latchAndRun w).result = s.result := rfl
@[simp] theorem State.latchAndRun_result1 (s : State) (w : Word) : (s.latchAndRun w).result1 = s.result1 := rfl
@[simp] theorem State.latchAndRun_args (s : State) (w : Word) : (s.latchAndRun w).args = s.args := rfl
@[simp] theorem State.latchAndRun_latch (s : State) (w : Word) : (s.latchAndRun w).latch = some s.args := rfl
@[simp] theorem State.latchAndRun_xof (s : State) (w : Word) : (s.latchAndRun w).xof = s.xof := rfl
@[simp] theorem State.latchAndRun_matEntry (s : State) (w : Word) : (s.latchAndRun w).matEntry = s.matEntry := rfl
@[simp] theorem State.latchAndRun_matAcc (s : State) (w : Word) : (s.latchAndRun w).matAcc = s.matAcc := rfl
@[simp] theorem State.latchAndRun_host (s : State) (w : Word) : (s.latchAndRun w).host = s.host := rfl
@[simp] theorem State.latchAndRun_turns (s : State) (w : Word) : (s.latchAndRun w).turns = .sequencer :: s.turns := rfl
@[simp] theorem State.latchAndRun_freeCount (s : State) (w : Word) : (s.latchAndRun w).freeCount = s.freeCount := rfl

/-- An issued command finds its arguments in the latch (R27). -/
@[simp] theorem State.issue_argv (s : State) (w : Word) : (s.issue w).argv = s.args := rfl

/-- BUSY mirrors SEQ (R38). -/
@[simp] theorem State.busy_eq_true (s : State) : s.busy = true ↔ s.seq = .run := by
  unfold State.busy; split <;> simp_all

@[simp] theorem State.busy_eq_false (s : State) : s.busy = false ↔ s.seq = .idle := by
  unfold State.busy; split <;> simp_all

end Sys2Proof.Machine
end

