-- ==== Sys2Proof/Laws/Memory.lean ====
section
/-! SUPPORT. The laws of the sparse memories PM and BM: a read after a write gives the value written, a write leaves every
other key alone, a range read is the reads of its keys, and every operation keeps the canonical form. -/

namespace Sys2Proof.Machine

variable {α : Type}

/-! ## Single keys -/

@[simp] theorem Sparse.get_nil (b : Nat) : Sparse.get ([] : Sparse α) b = none := rfl

theorem Sparse.get_cons (c : Nat × α) (m : Sparse α) (b : Nat) :
    Sparse.get (c :: m) b = if b = c.1 then some c.2 else Sparse.get m b := by
  by_cases h : b = c.1 <;> simp [Sparse.get, List.lookup, h]
  simp [beq_eq_false_iff_ne.mpr h]

theorem Sparse.get_append (m m' : Sparse α) (b : Nat) :
    Sparse.get (m ++ m') b = (Sparse.get m b).or (Sparse.get m' b) := by
  induction m with
  | nil => rfl
  | cons c m ih =>
    rw [List.cons_append, Sparse.get_cons, Sparse.get_cons, ih]
    split <;> rfl

/-- Filtering by a condition on the key keeps or drops a key's value as a whole. -/
theorem Sparse.get_filter (m : Sparse α) (p : Nat → Bool) (b : Nat) :
    Sparse.get (m.filter fun c => p c.1) b = if p b then Sparse.get m b else none := by
  induction m with
  | nil => simp
  | cons c m ih =>
    by_cases hc : p c.1 = true
    · rw [List.filter_cons_of_pos (p := fun c : Nat × α => p c.1) hc, Sparse.get_cons, Sparse.get_cons, ih]
      by_cases hb : b = c.1
      · simp [hb, hc]
      · simp [hb]
    · rw [List.filter_cons_of_neg (p := fun c : Nat × α => p c.1) hc, ih, Sparse.get_cons]
      by_cases hb : b = c.1
      · subst hb; simp [hc]
      · simp [hb]

theorem Sparse.get_cells (a : Nat) (vs : List α) (b : Nat) :
    Sparse.get (cells a vs) b = if a ≤ b then vs[b - a]? else none := by
  induction vs generalizing a with
  | nil => simp [cells]
  | cons v vs ih =>
    rw [cells, Sparse.get_cons, ih]
    by_cases hb : b = a
    · subst hb; simp
    · by_cases h : a + 1 ≤ b
      · have h' : a ≤ b := by omega
        have e : b - a = (b - (a + 1)) + 1 := by omega
        simp [hb, h, h', e]
      · have h' : ¬ a ≤ b := by omega
        simp [hb, h, h']

/-- A read after a range write: the value written inside the range, the old value outside. -/
theorem Sparse.get_setRange (m : Sparse α) (a : Nat) (vs : List α) (b : Nat) :
    (m.setRange a vs).get b = if a ≤ b ∧ b < a + vs.length then vs[b - a]? else m.get b := by
  have h1 := Sparse.get_filter m (fun k => decide (k < a)) b
  have h2 := Sparse.get_filter m (fun k => decide (a + vs.length ≤ k)) b
  rw [Sparse.setRange, Sparse.get_append, Sparse.get_append, Sparse.get_cells]
  rw [h1, h2]
  by_cases hlo : a ≤ b
  · by_cases hhi : b < a + vs.length
    · have e : vs[b - a]? = some vs[b - a] := List.getElem?_eq_getElem (by omega)
      simp [hlo, hhi, e, Nat.not_lt.mpr hlo]
    · have e : vs[b - a]? = none := List.getElem?_eq_none (by omega)
      simp [hlo, hhi, e, Nat.not_lt.mpr hlo, Nat.le_of_not_lt hhi]
  · have h3 : ¬ a + vs.length ≤ b := by omega
    simp [hlo, h3, Nat.lt_of_not_le hlo]

/-- A read after a range is cleared: none inside the range, the old value outside. -/
theorem Sparse.get_clearRange (m : Sparse α) (a n b : Nat) :
    (m.clearRange a n).get b = if a ≤ b ∧ b < a + n then none else m.get b := by
  have h := Sparse.get_filter m (fun k => decide (k < a) || decide (a + n ≤ k)) b
  rw [Sparse.clearRange, h]
  by_cases hin : a ≤ b ∧ b < a + n
  · have : ¬ (b < a) ∧ ¬ (a + n ≤ b) := by omega
    simp [hin, this]
  · have : b < a ∨ a + n ≤ b := by omega
    simp [hin, this]

/-! ## The canonical form -/

theorem mem_cells {a : Nat} {vs : List α} {c : Nat × α} (h : c ∈ cells a vs) : a ≤ c.1 ∧ c.1 < a + vs.length := by
  induction vs generalizing a with
  | nil => cases h
  | cons v vs ih =>
    rcases List.mem_cons.mp h with rfl | h
    · simp
    · have := ih h
      simp only [List.length_cons]
      omega

theorem pairwise_cells (a : Nat) (vs : List α) : (cells a vs).Pairwise fun x y => x.1 < y.1 := by
  induction vs generalizing a with
  | nil => exact List.Pairwise.nil
  | cons v vs ih => exact List.Pairwise.cons (fun c hc => (mem_cells hc).1) (ih (a + 1))

/-- A range write inside the address space keeps the canonical form. -/
theorem Sparse.wfBelow_setRange {m : Sparse α} {size a : Nat} {vs : List α} (h : m.wfBelow size)
    (hr : a + vs.length ≤ size) : (m.setRange a vs).wfBelow size := by
  refine ⟨?_, fun c hc => ?_⟩
  · refine List.pairwise_append.mpr ⟨List.pairwise_append.mpr
      ⟨h.1.filter _, pairwise_cells a vs, fun x hx y hy => ?_⟩, h.1.filter _, fun x hx y hy => ?_⟩
    · have := of_decide_eq_true (List.mem_filter.mp hx).2
      have := (mem_cells hy).1
      omega
    · have hy' := of_decide_eq_true (List.mem_filter.mp hy).2
      rcases List.mem_append.mp hx with hx | hx
      · have := of_decide_eq_true (List.mem_filter.mp hx).2
        omega
      · have := (mem_cells hx).2
        omega
  · rcases List.mem_append.mp hc with hc | hc
    · rcases List.mem_append.mp hc with hc | hc
      · exact h.2 c (List.mem_filter.mp hc).1
      · exact Nat.lt_of_lt_of_le (mem_cells hc).2 hr
    · exact h.2 c (List.mem_filter.mp hc).1

/-- Clearing a range keeps the canonical form. -/
theorem Sparse.wfBelow_clearRange {m : Sparse α} {size : Nat} (a n : Nat) (h : m.wfBelow size) :
    (m.clearRange a n).wfBelow size :=
  ⟨h.1.filter _, fun c hc => h.2 c (List.mem_filter.mp hc).1⟩

/-- The empty memory, as after reset, is in canonical form. -/
theorem Sparse.wfBelow_nil (size : Nat) : Sparse.wfBelow ([] : Sparse α) size :=
  ⟨List.Pairwise.nil, fun _ h => absurd h List.not_mem_nil⟩

/-! ## Range reads -/

theorem collect_length {a n : Nat} {m : Sparse α} {vs : List α} (h : collect a n m = some vs) : vs.length = n := by
  induction m generalizing a n vs with
  | nil => cases n <;> simp [collect] at h; subst h; rfl
  | cons c m ih =>
    cases n with
    | zero => simp [collect] at h; subst h; rfl
    | succ n =>
      simp only [collect] at h
      split at h
      · obtain ⟨ws, hw, rfl⟩ := Option.map_eq_some_iff.mp h
        simp [ih hw]
      · cases h

/-- A range read that succeeds gives as many values as asked for. -/
theorem Sparse.getRange_length {m : Sparse α} {a n : Nat} {vs : List α} (h : m.getRange a n = some vs) :
    vs.length = n := collect_length h

theorem Sparse.get_eq_none_of_lt {m : Sparse α} {b : Nat} (h : ∀ c ∈ m, b < c.1) : m.get b = none := by
  induction m with
  | nil => rfl
  | cons c m ih =>
    rw [Sparse.get_cons, if_neg (Nat.ne_of_lt (h c List.mem_cons_self)), ih fun d hd => h d (List.mem_cons_of_mem _ hd)]

/-- Collecting from a sorted list that starts at the key or above reads each key. -/
theorem collect_eq_some_iff {a n : Nat} {m : Sparse α} {vs : List α} (hs : m.Pairwise fun x y => x.1 < y.1)
    (ha : ∀ c ∈ m, a ≤ c.1) :
    collect a n m = some vs ↔ vs.length = n ∧ ∀ k, k < n → m.get (a + k) = vs[k]? := by
  induction m generalizing a n vs with
  | nil =>
    cases n with
    | zero => simp only [collect]; constructor
              · rintro ⟨⟩; simp
              · intro ⟨h, _⟩; rw [List.eq_nil_of_length_eq_zero h]
    | succ n =>
      simp only [collect, Sparse.get_nil]
      refine ⟨fun h => (by cases h), fun ⟨h, h'⟩ => ?_⟩
      have := h' 0 (by omega)
      rw [List.getElem?_eq_getElem (by omega)] at this
      cases this
  | cons c m ih =>
    obtain ⟨b, v⟩ := c
    have hs' := List.pairwise_cons.mp hs
    cases n with
    | zero => simp only [collect]; constructor
              · rintro ⟨⟩; simp
              · intro ⟨h, _⟩; rw [List.eq_nil_of_length_eq_zero h]
    | succ n =>
      simp only [collect]
      by_cases hb : b = a
      · subst hb
        rw [if_pos rfl]
        have hm : ∀ c ∈ m, b + 1 ≤ c.1 := fun c hc => hs'.1 c hc
        constructor
        · intro h
          obtain ⟨ws, hw, rfl⟩ := Option.map_eq_some_iff.mp h
          obtain ⟨hl, hg⟩ := (ih hs'.2 hm).mp hw
          refine ⟨by simp [hl], fun k hk => ?_⟩
          cases k with
          | zero => simp [Sparse.get_cons]
          | succ k =>
            have := hg k (by omega)
            rw [Sparse.get_cons, if_neg (by simp), show b + (k + 1) = b + 1 + k by omega, this]
            simp
        · intro ⟨hl, hg⟩
          cases vs with
          | nil => simp at hl
          | cons w ws =>
            have h0 := hg 0 (by omega)
            simp [Sparse.get_cons] at h0
            subst h0
            have : collect (b + 1) n m = some ws := (ih hs'.2 hm).mpr ⟨by simpa using hl, fun k hk => by
              have := hg (k + 1) (by omega)
              rw [Sparse.get_cons, if_neg (by simp), show b + (k + 1) = b + 1 + k by omega] at this
              simpa using this⟩
            simp [this]
      · rw [if_neg hb]
        refine ⟨fun h => (by cases h), fun ⟨hl, hg⟩ => ?_⟩
        have h0 := hg 0 (by omega)
        have hlt : a < b := Nat.lt_of_le_of_ne (ha (b, v) List.mem_cons_self) (Ne.symm hb)
        rw [Nat.add_zero, Sparse.get_eq_none_of_lt (fun c hc => by
          rcases List.mem_cons.mp hc with rfl | hc
          · exact hlt
          · exact Nat.lt_trans hlt (hs'.1 c hc)), List.getElem?_eq_getElem (by omega)] at h0
        cases h0

theorem dropWhile_eq_filter_of_sorted {m : Sparse α} (a : Nat) (hs : m.Pairwise fun x y => x.1 < y.1) :
    m.dropWhile (fun c => decide (c.1 < a)) = m.filter fun c => decide (a ≤ c.1) := by
  induction m with
  | nil => rfl
  | cons c m ih =>
    have hs' := List.pairwise_cons.mp hs
    by_cases hc : c.1 < a
    · rw [List.dropWhile_cons_of_pos (by simpa using hc), ih hs'.2, List.filter_cons_of_neg (by simpa using hc)]
    · rw [List.dropWhile_cons_of_neg (by simpa using hc), List.filter_cons_of_pos (by simpa using hc)]
      rw [List.filter_eq_self.mpr]
      intro d hd
      have := hs'.1 d hd
      simp
      omega

/-- A range read of a canonical memory is the reads of its keys (R13): it gives vs exactly where each key holds the entry
of vs at its place. -/
theorem Sparse.getRange_eq_some_iff {m : Sparse α} {a n : Nat} {vs : List α} (hs : m.Pairwise fun x y => x.1 < y.1) :
    m.getRange a n = some vs ↔ vs.length = n ∧ ∀ k, k < n → m.get (a + k) = vs[k]? := by
  rw [Sparse.getRange, dropWhile_eq_filter_of_sorted a hs,
    collect_eq_some_iff (hs.filter _) fun c hc => of_decide_eq_true (List.mem_filter.mp hc).2]
  have h := Sparse.get_filter m fun b => decide (a ≤ b)
  simp only [h, Nat.le_add_right, decide_true, if_true]

/-- A range read of a canonical memory fails exactly where one of its keys is unwritten (R44). -/
theorem Sparse.getRange_eq_none_iff {m : Sparse α} {a n : Nat} (hs : m.Pairwise fun x y => x.1 < y.1) :
    m.getRange a n = none ↔ ∃ k, k < n ∧ m.get (a + k) = none := by
  constructor
  · intro h
    apply Classical.byContradiction
    intro hk
    have hsome : ∀ k, k < n → ∃ v, m.get (a + k) = some v := fun k hkn =>
      Option.ne_none_iff_exists'.mp fun hn => hk ⟨k, hkn, hn⟩
    have hvs : ∃ vs : List α, vs.length = n ∧ ∀ k, k < n → m.get (a + k) = vs[k]? := by
      clear h hk
      induction n with
      | zero => exact ⟨[], rfl, fun k hk => absurd hk (Nat.not_lt_zero k)⟩
      | succ n ih =>
        obtain ⟨vs, hl, hg⟩ := ih fun k hk => hsome k (Nat.lt_succ_of_lt hk)
        obtain ⟨v, hv⟩ := hsome n (Nat.lt_succ_self n)
        refine ⟨vs ++ [v], by simp [hl], fun k hk => ?_⟩
        by_cases hkn : k < n
        · rw [List.getElem?_append_left (by omega)]
          exact hg k hkn
        · obtain rfl : k = n := by omega
          rw [List.getElem?_append_right (by omega), hl, Nat.sub_self, hv]
          rfl
    obtain ⟨vs, hvs⟩ := hvs
    rw [(Sparse.getRange_eq_some_iff hs).mpr hvs] at h
    cases h
  · intro ⟨k, hk, hn⟩
    cases h : m.getRange a n with
    | none => rfl
    | some vs =>
      obtain ⟨hl, hg⟩ := (Sparse.getRange_eq_some_iff hs).mp h
      have := hg k hk
      rw [hn, List.getElem?_eq_getElem (by omega)] at this
      cases this

end Sys2Proof.Machine
end

