-- ==== Sys2Proof/Laws/Checks.lean ====
section
/-! SUPPORT. What the checks and the source reads can do: each says in one lemma what a next state behind it means. -/

namespace Sys2Proof.Machine

/-- Every range of a list ends within the space (R301, R302). -/
theorem endsWithin_all (size : Nat) (l : List Range) :
    l.all (endsWithin size) = true ↔ ∀ r ∈ l, r.start + r.len ≤ size := by
  simp [List.all_eq_true, endsWithin]

/-- All checks pass exactly where every slot range ends within PM, every byte range within BM, and nothing overlaps
(R301, R302, R304). -/
theorem validate_eq_none_iff (p : Config.Params) (o : Operands) :
    validate p o = none ↔
      (∀ r ∈ o.slotDst ++ o.slotSrc, r.start + r.len ≤ p.nslot) ∧
      (∀ r ∈ o.bmDst ++ o.bmSrc, r.start + r.len ≤ p.bmSize) ∧ overlapping o = false := by
  rw [← endsWithin_all, ← endsWithin_all]
  unfold validate
  cases (o.slotDst ++ o.slotSrc).all (endsWithin p.nslot) <;>
    cases (o.bmDst ++ o.bmSrc).all (endsWithin p.bmSize) <;> cases overlapping o <;> simp

/-- A failing check reports an error. -/
theorem validate_ne_noError {p : Config.Params} {o : Operands} {e : ErrCode} (h : validate p o = some e) : e ≠ .noError := by
  unfold validate at h
  split at h
  · cases h; decide
  · split at h
    · cases h; decide
    · split at h
      · cases h; decide
      · cases h

theorem checked_of_valid {i : Instr} {s : State} {eff : Result} (h : validate s.params (operandsOf i s.params s.argv) = none) :
    checked i s eff = eff := by simp [checked, h]

theorem checked_of_invalid {i : Instr} {s : State} {eff : Result} {e : ErrCode}
    (h : validate s.params (operandsOf i s.params s.argv) = some e) : checked i s eff = .next (s.endWithError e) := by simp [checked, h]

/-- A checked command ends with the failing check's error, or passes all checks and takes its effect (R303). -/
theorem checked_eq_next {i : Instr} {s t : State} {eff : Result} (h : checked i s eff = .next t) :
    (∃ e, validate s.params (operandsOf i s.params s.argv) = some e ∧ t = s.endWithError e) ∨
    (validate s.params (operandsOf i s.params s.argv) = none ∧ eff = .next t) := by
  unfold checked at h
  split at h
  · rename_i e he
    cases h
    exact .inl ⟨e, he, rfl⟩
  · rename_i he
    exact .inr ⟨he, h⟩

theorem withSlots_of_some {s : State} {x n : Nat} {ps : List Poly} {k : List Poly → Result}
    (h : s.pm.getRange x n = some ps) : withSlots s x n k = k ps := by simp [withSlots, h]

theorem withBytes_of_some {s : State} {a n : Nat} {bs : List Byte} {k : List Byte → Result}
    (h : s.bm.getRange a n = some bs) : withBytes s a n k = k bs := by simp [withBytes, h]

/-- Going on after reading slots: they were all written. -/
theorem withSlots_eq_next {s t : State} {x n : Nat} {k : List Poly → Result} (h : withSlots s x n k = .next t) :
    ∃ ps, s.pm.getRange x n = some ps ∧ ps.length = n ∧ k ps = .next t := by
  unfold withSlots at h
  split at h
  · cases h
  · rename_i ps hps
    exact ⟨ps, hps, Sparse.getRange_length hps, h⟩

/-- Going on after reading bytes: they were all written. -/
theorem withBytes_eq_next {s t : State} {a n : Nat} {k : List Byte → Result} (h : withBytes s a n k = .next t) :
    ∃ bs, s.bm.getRange a n = some bs ∧ bs.length = n ∧ k bs = .next t := by
  unfold withBytes at h
  split at h
  · cases h
  · rename_i bs hbs
    exact ⟨bs, hbs, Sparse.getRange_length hbs, h⟩

/-- What passing the checks says of each range of a command. -/
theorem slot_le_of_valid {p : Config.Params} {o : Operands} (h : validate p o = none) {r : Range}
    (hr : r ∈ o.slotDst ++ o.slotSrc) : r.start + r.len ≤ p.nslot := ((validate_eq_none_iff p o).mp h).1 r hr

theorem byte_le_of_valid {p : Config.Params} {o : Operands} (h : validate p o = none) {r : Range}
    (hr : r ∈ o.bmDst ++ o.bmSrc) : r.start + r.len ≤ p.bmSize := ((validate_eq_none_iff p o).mp h).2.1 r hr

end Sys2Proof.Machine
end

