-- ==== Sys2Proof/Laws/Digits.lean ====
section
/-! SUPPORT. The laws of digits, byte strings and packed fields: lengths, the value of each digit, and that writing a number
as digits and reading it back agree. -/

namespace Sys2Proof.Machine

/-! ## Digits -/

@[simp] theorem digits_length (w n v : Nat) : (digits w n v).length = n := unpackPoly.digits_length w n v

/-- Digit k of a number. -/
theorem getElem?_digits (w n v k : Nat) :
    (digits w n v)[k]? = if k < n then some (v / 2 ^ (w * k) % 2 ^ w) else none := by
  induction n generalizing v k with
  | zero => simp [digits]
  | succ n ih =>
    cases k with
    | zero => simp [digits]
    | succ k =>
      simp only [digits, List.getElem?_cons_succ, ih, Nat.pow_eq, Nat.add_lt_add_iff_right]
      rw [Nat.div_div_eq_div_mul, ← pow_add, show w + w * k = w * (k + 1) by ring]

theorem ofDigits_lt {w : Nat} {ds : List Nat} (h : ∀ d ∈ ds, d < 2 ^ w) : ofDigits w ds < 2 ^ (w * ds.length) := by
  induction ds with
  | nil => simp [ofDigits]
  | cons d ds ih =>
    have h1 := h d List.mem_cons_self
    have h2 := ih fun x hx => h x (List.mem_cons_of_mem _ hx)
    rw [ofDigits, List.length_cons, show w * (ds.length + 1) = w + w * ds.length by ring, pow_add, Nat.pow_eq]
    have h3 : 2 ^ w * (ofDigits w ds + 1) ≤ 2 ^ w * 2 ^ (w * ds.length) := Nat.mul_le_mul_left _ h2
    rw [Nat.mul_succ] at h3
    omega

/-- The digits of the number that has them. -/
theorem digits_ofDigits {w n : Nat} {ds : List Nat} (hn : ds.length = n) (h : ∀ d ∈ ds, d < 2 ^ w) :
    digits w n (ofDigits w ds) = ds := by
  induction ds generalizing n with
  | nil => subst hn; rfl
  | cons d ds ih =>
    subst hn
    have h1 := h d List.mem_cons_self
    have hp : 0 < 2 ^ w := Nat.two_pow_pos w
    rw [List.length_cons, digits, ofDigits, Nat.pow_eq, Nat.add_mul_mod_self_left, Nat.mod_eq_of_lt h1,
      Nat.add_mul_div_left _ _ hp, Nat.div_eq_of_lt h1, Nat.zero_add,
      ih rfl fun x hx => h x (List.mem_cons_of_mem _ hx)]

/-- The number of a number's n lowest digits. -/
theorem ofDigits_digits (w n v : Nat) : ofDigits w (digits w n v) = v % 2 ^ (w * n) := by
  induction n generalizing v with
  | zero => simp [digits, ofDigits, Nat.mod_one]
  | succ n ih =>
    rw [digits, ofDigits, ih, Nat.pow_eq, show w * (n + 1) = w + w * n by ring, pow_add, Nat.mod_mul]

theorem digits_lt {w n v d : Nat} (h : d ∈ digits w n v) : d < 2 ^ w := by
  induction n generalizing v with
  | zero => cases h
  | succ n ih =>
    rw [digits] at h
    rcases List.mem_cons.mp h with rfl | h
    · exact Nat.mod_lt _ (Nat.two_pow_pos w)
    · exact ih h

/-! ## Byte strings (R51) -/

@[simp] theorem natToBytes_length (n v : Nat) : (natToBytes n v).length = n := by simp [natToBytes]

/-- Byte k of a number, least significant first. -/
theorem getElem?_natToBytes (n v k : Nat) :
    (natToBytes n v)[k]? = if k < n then some (BitVec.ofNat 8 (v / 2 ^ (8 * k))) else none := by
  rw [natToBytes, List.getElem?_map, getElem?_digits]
  split
  · simp only [Option.map_some, Option.some.injEq]
    apply BitVec.eq_of_toNat_eq
    simp
  · rfl

theorem toNat_lt_of_mem {bs : List Byte} : ∀ d ∈ bs.map BitVec.toNat, d < 2 ^ 8 := by
  intro d hd
  obtain ⟨b, -, rfl⟩ := List.mem_map.mp hd
  exact b.isLt

theorem map_ofNat_toNat (bs : List Byte) : (bs.map BitVec.toNat).map (BitVec.ofNat 8) = bs := by
  rw [List.map_map]
  conv_rhs => rw [← List.map_id bs]
  exact List.map_congr_left fun b _ => by simp

theorem bytesToNat_lt (bs : List Byte) : bytesToNat bs < 2 ^ (8 * bs.length) := by
  have := ofDigits_lt (ds := bs.map BitVec.toNat) toNat_lt_of_mem
  rwa [List.length_map] at this

/-- Bytes of the number a byte string holds. -/
theorem natToBytes_bytesToNat {n : Nat} {bs : List Byte} (h : bs.length = n) : natToBytes n (bytesToNat bs) = bs := by
  rw [natToBytes, bytesToNat, digits_ofDigits (by simpa using h) toNat_lt_of_mem, map_ofNat_toNat]

/-- The number that a number's n bytes hold. -/
theorem bytesToNat_natToBytes (n v : Nat) : bytesToNat (natToBytes n v) = v % 2 ^ (8 * n) := by
  rw [bytesToNat, natToBytes, List.map_map, ← ofDigits_digits]
  congr 1
  conv_rhs => rw [← List.map_id (digits 8 n v)]
  refine List.map_congr_left fun d hd => ?_
  have := digits_lt hd
  simp
  omega

/-! ## Packed fields (R230) -/

@[simp] theorem packFields_length (w : Nat) (fs : List Nat) : (packFields w fs).length = packedBytes w := by
  simp [packFields]

@[simp] theorem unpackFields_length (w : Nat) (bs : List Byte) : (unpackFields w bs).length = Config.polyLen := by
  simp [unpackFields]

/-- Field i of a packed polynomial's bytes. -/
theorem getElem?_unpackFields (w : Nat) (bs : List Byte) (i : Nat) :
    (unpackFields w bs)[i]? = if i < 256 then some (bytesToNat bs / 2 ^ (w * i) % 2 ^ w) else none :=
  getElem?_digits w 256 _ i

theorem unpackFields_packFields {w : Nat} {fs : List Nat} (hl : fs.length = 256) (h : ∀ f ∈ fs, f < 2 ^ w) :
    unpackFields w (packFields w fs) = fs := by
  have hlt := ofDigits_lt h
  rw [hl] at hlt
  rw [unpackFields, packFields, bytesToNat_natToBytes, packedBytes,
    Nat.mod_eq_of_lt (by rwa [show 8 * (32 * w) = w * 256 by ring]), digits_ofDigits hl h]

theorem packFields_unpackFields {w : Nat} {bs : List Byte} (h : bs.length = packedBytes w) :
    packFields w (unpackFields w bs) = bs := by
  have hlt := bytesToNat_lt bs
  rw [h, packedBytes, show 8 * (32 * w) = w * 256 by ring] at hlt
  rw [packFields, unpackFields, ofDigits_digits, Nat.mod_eq_of_lt hlt, natToBytes_bytesToNat h]

@[simp] theorem packPoly_length (w : Nat) (f : Int → Int) (p : Poly) : (packPoly w f p).length = packedBytes w := by
  simp [packPoly]

@[simp] theorem pieces_length (len n : Nat) (bs : List Byte) : (pieces len n bs).length = n :=
  polyOfImage.pieces_length len n bs

@[simp] theorem unpackVec_length (len n : Nat) (f : List Byte → Poly) (bs : List Byte) :
    (unpackVec len n f bs).length = n := by simp [unpackVec]

/-- Piece k of a byte string. -/
theorem getElem?_pieces (len n : Nat) (bs : List Byte) (k : Nat) :
    (pieces len n bs)[k]? = if k < n then some ((bs.drop (len * k)).take len) else none := by
  induction n generalizing bs k with
  | zero => simp [pieces]
  | succ n ih =>
    cases k with
    | zero => simp [pieces]
    | succ k =>
      simp only [pieces, List.getElem?_cons_succ, ih, List.drop_drop, Nat.add_lt_add_iff_right]
      rw [show len + len * k = len * (k + 1) by ring]

/-- The pieces of a concatenation of strings of one length are those strings. -/
theorem pieces_flatMap {α : Type} {len n : Nat} (f : α → List Byte) (xs : List α) (hn : xs.length = n)
    (h : ∀ x ∈ xs, (f x).length = len) : pieces len n (xs.flatMap f) = xs.map f := by
  induction xs generalizing n with
  | nil => subst hn; rfl
  | cons x xs ih =>
    subst hn
    have hx := h x List.mem_cons_self
    rw [List.length_cons, pieces, List.flatMap_cons, List.take_append_of_le_length hx.ge,
      List.take_of_length_le hx.le, ← hx, List.drop_left, hx,
      ih rfl fun y hy => h y (List.mem_cons_of_mem _ hy), List.map_cons]

/-- The length of a concatenation of strings of one length. -/
theorem flatMap_length {α : Type} {len : Nat} (f : α → List Byte) (xs : List α) (h : ∀ x ∈ xs, (f x).length = len) :
    (xs.flatMap f).length = xs.length * len := by
  induction xs with
  | nil => simp
  | cons x xs ih =>
    rw [List.flatMap_cons, List.length_append, h x List.mem_cons_self,
      ih fun y hy => h y (List.mem_cons_of_mem _ hy), List.length_cons]
    ring

@[simp] theorem polyImage_length (p : Poly) : (polyImage p).length = 1024 := by
  have := flatMap_length (len := 4) (fun c : Word => natToBytes 4 c.toNat) p.coeffs (by simp)
  rw [polyImage, this, p.size, Config.polyLen]

end Sys2Proof.Machine
end

