-- ==== Sys2Proof/Laws/Encoding.lean ====
section
/-! SUPPORT. The fields of an encoded word: each field of `packWord` is the value given, where the values fit (R70). -/

namespace Sys2Proof

/-- The values fit their fields (R70). -/
structure FieldsFit (op rd ra rb vl sl : Nat) : Prop where
  op : op < 256
  rd : rd < 64
  ra : ra < 64
  rb : rb < 64
  vl : vl < 4
  sl : sl < 2

theorem packWord_toNat {op rd ra rb vl sl : Nat} (h : FieldsFit op rd ra rb vl sl) :
    (packWord op rd ra rb vl sl).toNat
      = op + rd * 256 + ra * 16384 + rb * 1048576 + vl * 67108864 + sl * 268435456 := by
  obtain ⟨h1, h2, h3, h4, h5, h6⟩ := h
  rw [packWord, BitVec.toNat_ofNat, Nat.mod_eq_of_lt (by omega)]

theorem opField_packWord {op rd ra rb vl sl : Nat} (h : FieldsFit op rd ra rb vl sl) :
    opField (packWord op rd ra rb vl sl) = op := by
  rw [opField, packWord_toNat h]
  obtain ⟨h1, h2, h3, h4, h5, h6⟩ := h
  omega

theorem rdField_packWord {op rd ra rb vl sl : Nat} (h : FieldsFit op rd ra rb vl sl) :
    rdField (packWord op rd ra rb vl sl) = rd := by
  rw [rdField, packWord_toNat h]
  obtain ⟨h1, h2, h3, h4, h5, h6⟩ := h
  omega

theorem raField_packWord {op rd ra rb vl sl : Nat} (h : FieldsFit op rd ra rb vl sl) :
    raField (packWord op rd ra rb vl sl) = ra := by
  rw [raField, packWord_toNat h]
  obtain ⟨h1, h2, h3, h4, h5, h6⟩ := h
  omega

theorem rbField_packWord {op rd ra rb vl sl : Nat} (h : FieldsFit op rd ra rb vl sl) :
    rbField (packWord op rd ra rb vl sl) = rb := by
  rw [rbField, packWord_toNat h]
  obtain ⟨h1, h2, h3, h4, h5, h6⟩ := h
  omega

theorem vlField_packWord {op rd ra rb vl sl : Nat} (h : FieldsFit op rd ra rb vl sl) :
    vlField (packWord op rd ra rb vl sl) = vl := by
  rw [vlField, packWord_toNat h]
  obtain ⟨h1, h2, h3, h4, h5, h6⟩ := h
  omega

theorem sField_packWord {op rd ra rb vl sl : Nat} (h : FieldsFit op rd ra rb vl sl) :
    sField (packWord op rd ra rb vl sl) = sl := by
  rw [sField, packWord_toNat h]
  obtain ⟨h1, h2, h3, h4, h5, h6⟩ := h
  omega

theorem rsvField_packWord {op rd ra rb vl sl : Nat} (h : FieldsFit op rd ra rb vl sl) :
    rsvField (packWord op rd ra rb vl sl) = 0 := by
  rw [rsvField, packWord_toNat h]
  obtain ⟨h1, h2, h3, h4, h5, h6⟩ := h
  omega

theorem vlCode_lt (vl : VecLen) : vlCode vl < 4 := by cases vl <;> decide

theorem seedCode_lt (sl : SeedLen) : seedCode sl < 2 := by cases sl <;> decide

@[simp] theorem vlOfCode_vlCode (vl : VecLen) : vlOfCode (vlCode vl) = some vl := by cases vl <;> rfl

@[simp] theorem seedOfCode_seedCode (sl : SeedLen) : seedOfCode (seedCode sl) = some sl := by cases sl <;> rfl

end Sys2Proof
end

