-- ==== Sys2Proof/Laws/Hints.lean ====
section
/-! SUPPORT. The laws of the hint table: how many indices a row has, and the table's length. -/

namespace Sys2Proof.Machine

theorem hintIndicesFrom_length (j : Nat) (cs : List Word) :
    (hintIndicesFrom j cs).length = cs.countP fun c => c != 0 := by
  induction cs generalizing j with
  | nil => rfl
  | cons c cs ih =>
    by_cases h : c = 0#32 <;> simp [hintIndicesFrom, h, ih]

/-- A row has one index for each nonzero coefficient (R243). -/
theorem hintIndices_length (p : Poly) : (hintIndices p).length = p.weight := hintIndicesFrom_length 0 p.coeffs

theorem flatMap_hintIndices_length (h : List Poly) : (h.flatMap hintIndices).length = weightOf h := by
  simp [weightOf, List.length_flatMap, hintIndices_length]

theorem runningCounts_length (k : Nat) (h : List Poly) : (runningCounts k h).length = h.length := by
  induction h generalizing k with
  | nil => rfl
  | cons p h ih => simp [runningCounts, ih]

/-- The hint table has OMEGA + K bytes (R243). -/
theorem packHint_length {h : List Poly} (hl : h.length = Config.vecK) (hw : weightOf h ≤ Config.omega) :
    (packHint h).length = Config.hintBytes := by
  have := flatMap_hintIndices_length h
  simp only [packHint, List.length_map, List.length_append, List.length_replicate, runningCounts_length, hl, this]
  simp only [Config.omega, Config.vecK, Config.hintBytes] at hw ⊢
  omega

theorem unpackRows_length {y : List Nat} {k : Nat} {cs : List Nat} {h : List Poly} (hh : unpackRows y k cs = some h) :
    h.length = cs.length := by
  induction cs generalizing k h with
  | nil =>
    simp only [unpackRows] at hh
    split at hh
    · cases hh; rfl
    · cases hh
  | cons c cs ih =>
    simp only [unpackRows] at hh
    split at hh
    · cases hh
    · split at hh
      · obtain ⟨t, ht, rfl⟩ := Option.map_eq_some_iff.mp hh
        simp [ih ht]
      · cases hh

/-- An accepted hint table gives K rows (R246). -/
theorem unpackHint_length {bs : List Byte} {h : List Poly} (hb : bs.length = Config.hintBytes)
    (hh : unpackHint bs = some h) : h.length = Config.vecK := by
  have := unpackRows_length hh
  simpa [hb] using this

end Sys2Proof.Machine
end

