-- ==== Sys2Proof/Laws/Streams.lean ====
section
/-! SUPPORT. The laws of the XOF stream and of the sessions: a prefix has its length, a shorter prefix is the beginning of a
longer one, and the sessions give one polynomial each. -/

namespace Sys2Proof.Machine

theorem squeezeBlock_length {lanes : Nat} {a : List Nat} (h : lanes ≤ a.length) :
    ((a.take lanes).flatMap (natToBytes 8)).length = lanes * 8 := by
  rw [List.length_flatMap]
  simp [h]

theorem chiRow_length (a b c d e : Nat) : (chiRow a b c d e).length = 5 := rfl

theorem keccakRound_iota_length (rc : Nat) (a : List Nat) : (keccakRound.iota rc a).length = a.length := by
  cases a <;> rfl

theorem keccakRound_length (rc : Nat) (a : List Nat) : (keccakRound rc a).length = a.length := by
  unfold keccakRound
  split
  · rw [keccakRound_iota_length]; rfl
  · rfl

theorem keccakF_length (a : List Nat) : (keccakF a).length = a.length := by
  unfold keccakF
  generalize roundConstants = rcs
  induction rcs generalizing a with
  | nil => rfl
  | cons rc rcs ih => rw [List.foldl_cons, ih, keccakRound_length]

theorem xorLanes_length (bs ls : List Nat) : (xorLanes bs ls).length = ls.length := by
  induction bs generalizing ls with
  | nil => rfl
  | cons b bs ih => cases ls with
    | nil => rfl
    | cons l ls => simp [xorLanes, ih]

theorem absorb_length (rate n : Nat) (bs : List Byte) (a : List Nat) : (absorb rate n bs a).length = a.length := by
  induction n generalizing bs a with
  | zero => rfl
  | succ n ih => rw [absorb, ih, keccakF_length, xorLanes_length]

theorem squeeze_length {rate n : Nat} {a : List Nat} (hr : rate % 8 = 0) (h : rate / 8 ≤ a.length) :
    (squeeze rate n a).length = n * rate := by
  induction n generalizing a with
  | zero => simp [squeeze]
  | succ n ih =>
    rw [squeeze, List.length_append, squeezeBlock_length h, ih (by rwa [keccakF_length]), Nat.succ_mul]
    omega

/-- Squeezing more blocks goes on from fewer. -/
theorem squeeze_prefix (rate n m : Nat) (a : List Nat) : squeeze rate n a <+: squeeze rate (n + m) a := by
  induction n generalizing a with
  | zero => simp [squeeze]
  | succ n ih =>
    rw [show n + 1 + m = n + m + 1 by omega, squeeze, squeeze]
    exact (List.prefix_append_right_inj _).mpr (ih _)

/-- A prefix of the stream has the length asked for. -/
@[simp] theorem xofPrefix_length (mode : XofMode) (msg : List Byte) (n : Nat) : (xofPrefix mode msg n).length = n := by
  have hr : rateOf mode % 8 = 0 ∧ rateOf mode / 8 ≤ 25 ∧ 0 < rateOf mode := by cases mode <;> decide
  rw [xofPrefix, List.length_take, squeeze_length hr.1 (by rw [absorb_length]; simpa using hr.2.1)]
  have := Nat.lt_div_mul_add (a := n) hr.2.2
  rw [Nat.add_mul, Nat.one_mul]
  omega

/-- The stream is one: a shorter prefix is the beginning of a longer one (R200, R202). -/
theorem xofPrefix_take (mode : XofMode) (msg : List Byte) {n m : Nat} (h : n ≤ m) :
    (xofPrefix mode msg m).take n = xofPrefix mode msg n := by
  have hd : n / rateOf mode ≤ m / rateOf mode := Nat.div_le_div_right h
  obtain ⟨k, hk⟩ := Nat.exists_eq_add_of_le hd
  have hp := squeeze_prefix (rateOf mode) (n / rateOf mode + 1) k
    (absorb (rateOf mode) ((shakePadded (rateOf mode) msg).length / rateOf mode) (shakePadded (rateOf mode) msg)
      (List.replicate 25 0))
  rw [show n / rateOf mode + 1 + k = m / rateOf mode + 1 by omega] at hp
  have hlen := xofPrefix_length mode msg n
  rw [xofPrefix, List.length_take] at hlen
  rw [xofPrefix, xofPrefix, List.take_take, Nat.min_eq_left h]
  obtain ⟨t, ht⟩ := hp
  rw [← ht, List.take_append_of_le_length (by omega)]

/-- The sessions give one polynomial for each message, each its sampler's. -/
theorem runSessions_eq_ok {sampler : List Byte → Except Shortage Poly} {mode : XofMode} {budget : Nat}
    {msgs : List (List Byte)} {ps : List Poly} :
    runSessions sampler mode budget msgs = .ok ps ↔
      List.Forall₂ (fun msg p => sampler (xofPrefix mode msg budget) = .ok p) msgs ps := by
  induction msgs generalizing ps with
  | nil =>
    rw [runSessions]
    constructor
    · intro h; cases h; exact .nil
    · intro h; cases h; rfl
  | cons msg msgs ih =>
    rw [runSessions]
    constructor
    · intro h
      split at h
      · cases h
      · rename_i p hp
        split at h
        · cases h
        · rename_i qs hq
          cases h
          exact .cons hp (ih.mp hq)
    · intro h
      cases h with
      | cons hp hq => rw [hp, ih.mpr hq]

/-- A session that stays open is a session of one of the messages, in the given mode. -/
theorem runSessions_eq_error {sampler : List Byte → Except Shortage Poly} {mode : XofMode} {budget : Nat}
    {msgs : List (List Byte)} {x : XofSession} (h : runSessions sampler mode budget msgs = .error x) :
    x.mode = mode ∧ x.msg ∈ msgs ∧ x.pos = budget := by
  induction msgs with
  | nil => cases h
  | cons msg msgs ih =>
    rw [runSessions] at h
    split at h
    · cases h
      exact ⟨rfl, List.mem_cons_self, rfl⟩
    · split at h
      · rename_i y hy
        cases h
        exact ⟨(ih hy).1, List.mem_cons_of_mem _ (ih hy).2.1, (ih hy).2.2⟩
      · cases h

/-- Going on after taking the seed: it was read from BM, or copied by the open session (R67, R203). -/
theorem withSeed_eq_next {s t : State} {n : Nat} {k : List Byte → Result} (h : withSeed s n k = .next t) :
    ∃ seed, ((s.xof = none ∧ s.bm.getRange s.argv.a0.toNat n = some seed) ∨
      ∃ x, s.xof = some x ∧ x.msg.take n = seed) ∧ k seed = .next t := by
  unfold withSeed at h
  split at h
  · rename_i x hx
    exact ⟨_, .inr ⟨x, hx, rfl⟩, h⟩
  · rename_i hx
    obtain ⟨seed, hs, -, h⟩ := withBytes_eq_next h
    exact ⟨seed, .inl ⟨hx, hs⟩, h⟩

/-- Every message of a vector sampler begins with the seed (R201). -/
theorem mem_slotMsgs {n : Nat} {b : Word} {seed msg : List Byte} (h : msg ∈ slotMsgs n b seed) : seed <+: msg := by
  obtain ⟨k, -, rfl⟩ := List.mem_map.mp h
  exact List.prefix_append _ _

/-- Every message of a matrix entry begins with the seed (R190). -/
theorem mem_entryMsgs {rho msg : List Byte} (h : msg ∈ entryMsgs rho) : rho <+: msg := by
  obtain ⟨i, -, h⟩ := List.mem_flatMap.mp h
  obtain ⟨j, -, rfl⟩ := List.mem_map.mp h
  exact List.prefix_append _ _

theorem runSessions_length {sampler : List Byte → Except Shortage Poly} {mode : XofMode} {budget : Nat}
    {msgs : List (List Byte)} {ps : List Poly} (h : runSessions sampler mode budget msgs = .ok ps) :
    ps.length = msgs.length := (runSessions_eq_ok.mp h).length_eq.symm

@[simp] theorem slotMsgs_length (n : Nat) (b : Word) (seed : List Byte) : (slotMsgs n b seed).length = n := by
  simp [slotMsgs]

theorem rowsOf_length (n : Nat) (es : List Poly) : (rowsOf n es).length = n := by
  induction n generalizing es with
  | zero => rfl
  | succ n ih => simp [rowsOf, ih]

/-- The product has K rows (R190). -/
@[simp] theorem matProduct_length (es vec : List Poly) : (matProduct es vec).length = 8 := by
  simp [matProduct, rowsOf_length]

end Sys2Proof.Machine
end

