-- ==== Sys2Proof/Laws/Exec.lean ====
section
/-! SUPPORT. What a command can do. For each shared operation one lemma says everything a next state behind it means, and
`exec_outcome` says it once for all commands: a later proof takes the cases of `CommandOutcome` and unfolds no meaning. -/

namespace Sys2Proof.Machine

/-- What command i's turn can leave: an error and nothing else (R303), a sampler still running whose open session begins
with the seed (R67, R218), or a completion that changed only PM, BM and the MATVEC buffers before it (R29, R33). -/
inductive CommandOutcome (i : Instr) (s : State) : State → Prop where
  | error (e : ErrCode) (he : e ≠ .noError) : CommandOutcome i s (s.endWithError e)
  | running (x : XofSession) (r : Range) (seed : List Byte) (hr : (operandsOf i s.params s.argv).bmSrc = [r])
      (hs : (s.xof = none ∧ s.bm.getRange r.start r.len = some seed) ∨ ∃ y, s.xof = some y ∧ y.msg.take r.len = seed)
      (hx : seed <+: x.msg) : CommandOutcome i s { s with xof := some x }
  | completed (pm : PolyMem) (bm : Memory) (e a : Poly) (r r1 : Word)
      (hp : PolyMem.wf s.params s.pm → PolyMem.wf s.params pm) (hb : Memory.wf s.params s.bm → Memory.wf s.params bm) :
      CommandOutcome i s ({ s with pm := pm, bm := bm, matEntry := e, matAcc := a }.complete r r1)

/-! ## Shared operations -/

/-- A checked command's outcome, from its effect's. -/
theorem checked_outcome {i : Instr} {s t : State} {eff : Result} (h : checked i s eff = .next t)
    (he : validate s.params (operandsOf i s.params s.argv) = none → eff = .next t → CommandOutcome i s t) : CommandOutcome i s t := by
  rcases checked_eq_next h with ⟨e, hv, rfl⟩ | ⟨hv, heff⟩
  · exact .error e (validate_ne_noError hv)
  · exact he hv heff

/-- A completion after writing slots that exist. -/
theorem outcome_writeSlots {i : Instr} {s : State} {x : Nat} {ps : List Poly} (hr : x + ps.length ≤ s.params.nslot) (r r1 : Word) :
    CommandOutcome i s ((s.writeSlots x ps).complete r r1) :=
  .completed (s.pm.setRange x ps) s.bm s.matEntry s.matAcc r r1 (fun h => Sparse.wfBelow_setRange h hr) id

/-- A completion after writing bytes that exist. -/
theorem outcome_writeBytes {i : Instr} {s : State} {a : Nat} {bs : List Byte} (hr : a + bs.length ≤ s.params.bmSize) (r r1 : Word) :
    CommandOutcome i s ((s.writeBytes a bs).complete r r1) :=
  .completed s.pm (s.bm.setRange a bs) s.matEntry s.matAcc r r1 id fun h => Sparse.wfBelow_setRange h hr

/-- A one-source lift: its error, or f of each source slot (R160). -/
theorem lift1_eq_next {i : Instr} {rd ra n : Nat} {f : Poly → Poly} {s t : State} (h : lift1 i rd ra n f s = .next t) :
    (∃ e, validate s.params (operandsOf i s.params s.argv) = some e ∧ t = s.endWithError e) ∨
    (validate s.params (operandsOf i s.params s.argv) = none ∧ ∃ as, s.pm.getRange ra n = some as ∧ as.length = n ∧
      t = (s.writeSlots rd (as.map f)).complete 0 0) := by
  rcases checked_eq_next h with he | ⟨hv, h⟩
  · exact .inl he
  · obtain ⟨as, ha, hl, h⟩ := withSlots_eq_next h
    cases h
    exact .inr ⟨hv, as, ha, hl, rfl⟩

/-- A two-source lift: its error, or f of each pair of source slots (R160). -/
theorem lift2_eq_next {i : Instr} {rd ra rb n : Nat} {f : Poly → Poly → Poly} {s t : State}
    (h : lift2 i rd ra rb n f s = .next t) :
    (∃ e, validate s.params (operandsOf i s.params s.argv) = some e ∧ t = s.endWithError e) ∨
    (validate s.params (operandsOf i s.params s.argv) = none ∧ ∃ as bs, s.pm.getRange ra n = some as ∧ as.length = n ∧
      s.pm.getRange rb n = some bs ∧ bs.length = n ∧ t = (s.writeSlots rd (List.zipWith f as bs)).complete 0 0) := by
  rcases checked_eq_next h with he | ⟨hv, h⟩
  · exact .inl he
  · obtain ⟨as, ha, hal, h⟩ := withSlots_eq_next h
    obtain ⟨bs, hb, hbl, h⟩ := withSlots_eq_next h
    cases h
    exact .inr ⟨hv, as, bs, ha, hal, hb, hbl, rfl⟩

/-- A lift with two results: its error, or f and g of each source slot (R169, R170). -/
theorem lift1Pair_eq_next {i : Instr} {rd rb ra n : Nat} {f g : Poly → Poly} {s t : State}
    (h : lift1Pair i rd rb ra n f g s = .next t) :
    (∃ e, validate s.params (operandsOf i s.params s.argv) = some e ∧ t = s.endWithError e) ∨
    (validate s.params (operandsOf i s.params s.argv) = none ∧ ∃ as, s.pm.getRange ra n = some as ∧ as.length = n ∧
      t = ((s.writeSlots rd (as.map f)).writeSlots rb (as.map g)).complete 0 0) := by
  rcases checked_eq_next h with he | ⟨hv, h⟩
  · exact .inl he
  · obtain ⟨as, ha, hl, h⟩ := withSlots_eq_next h
    cases h
    exact .inr ⟨hv, as, ha, hl, rfl⟩

/-- A pack command: its error, or the packed bytes of each source slot in turn (R230). -/
theorem packCmd_eq_next {i : Instr} {ra n : Nat} {pack : Poly → List Byte} {s t : State}
    (h : packCmd i ra n pack s = .next t) :
    (∃ e, validate s.params (operandsOf i s.params s.argv) = some e ∧ t = s.endWithError e) ∨
    (validate s.params (operandsOf i s.params s.argv) = none ∧ ∃ ps, s.pm.getRange ra n = some ps ∧ ps.length = n ∧
      t = (s.writeBytes s.argv.a0.toNat (ps.flatMap pack)).complete 0 0) := by
  rcases checked_eq_next h with he | ⟨hv, h⟩
  · exact .inl he
  · obtain ⟨ps, hp, hl, h⟩ := withSlots_eq_next h
    cases h
    exact .inr ⟨hv, ps, hp, hl, rfl⟩

/-- An unpack command: its error, or the polynomial of each piece of the source bytes (R230). -/
theorem unpackCmd_eq_next {i : Instr} {rd n len : Nat} {unpack : List Byte → Poly} {s t : State}
    (h : unpackCmd i rd n len unpack s = .next t) :
    (∃ e, validate s.params (operandsOf i s.params s.argv) = some e ∧ t = s.endWithError e) ∨
    (validate s.params (operandsOf i s.params s.argv) = none ∧ ∃ bs, s.bm.getRange s.argv.a0.toNat (n * len) = some bs ∧
      bs.length = n * len ∧ t = (s.writeSlots rd (unpackVec len n unpack bs)).complete 0 0) := by
  rcases checked_eq_next h with he | ⟨hv, h⟩
  · exact .inl he
  · obtain ⟨bs, hb, hl, h⟩ := withBytes_eq_next h
    cases h
    exact .inr ⟨hv, bs, hb, hl, rfl⟩

/-- A rejection sampler: its error, still running, or the sessions' polynomials (R203, R218). -/
theorem sampleCmd_eq_next {i : Instr} {rd : Nat} {sl : SeedLen} {sampler : List Byte → Except Shortage Poly}
    {mode : XofMode} {msgs : List Byte → List (List Byte)} {s t : State}
    (h : sampleCmd i rd sl sampler mode msgs s = .next t) :
    (∃ e, validate s.params (operandsOf i s.params s.argv) = some e ∧ t = s.endWithError e) ∨
    (validate s.params (operandsOf i s.params s.argv) = none ∧ ∃ seed,
      ((s.xof = none ∧ s.bm.getRange s.argv.a0.toNat sl.bytes = some seed) ∨
        ∃ x, s.xof = some x ∧ x.msg.take sl.bytes = seed) ∧
      ((∃ x, runSessions sampler mode (streamBudget s) (msgs seed) = .error x ∧ t = { s with xof := some x }) ∨
       ∃ ps, runSessions sampler mode (streamBudget s) (msgs seed) = .ok ps ∧
        t = (s.writeSlots rd ps).complete 0 0)) := by
  rcases checked_eq_next h with he | ⟨hv, h⟩
  · exact .inl he
  · obtain ⟨seed, hs, h⟩ := withSeed_eq_next h
    refine .inr ⟨hv, seed, hs, ?_⟩
    split at h
    · rename_i x hx
      cases h
      exact .inl ⟨x, hx, rfl⟩
    · rename_i ps hps
      cases h
      exact .inr ⟨ps, hps, rfl⟩

/-! ## Outcomes of the shared operations -/

theorem lift1_outcome {i : Instr} {rd ra n : Nat} {f : Poly → Poly} {s t : State} (h : lift1 i rd ra n f s = .next t)
    (hd : ⟨rd, n⟩ ∈ (operandsOf i s.params s.argv).slotDst) : CommandOutcome i s t := by
  rcases lift1_eq_next h with ⟨e, hv, rfl⟩ | ⟨hv, as, -, hl, rfl⟩
  · exact .error e (validate_ne_noError hv)
  · refine outcome_writeSlots ?_ 0 0
    rw [List.length_map, hl]
    exact slot_le_of_valid hv (r := ⟨rd, n⟩) (List.mem_append_left _ hd)

theorem lift2_outcome {i : Instr} {rd ra rb n : Nat} {f : Poly → Poly → Poly} {s t : State}
    (h : lift2 i rd ra rb n f s = .next t) (hd : ⟨rd, n⟩ ∈ (operandsOf i s.params s.argv).slotDst) : CommandOutcome i s t := by
  rcases lift2_eq_next h with ⟨e, hv, rfl⟩ | ⟨hv, as, bs, -, hal, -, hbl, rfl⟩
  · exact .error e (validate_ne_noError hv)
  · refine outcome_writeSlots ?_ 0 0
    rw [List.length_zipWith, hal, hbl, Nat.min_self]
    exact slot_le_of_valid hv (r := ⟨rd, n⟩) (List.mem_append_left _ hd)

theorem lift1Pair_outcome {i : Instr} {rd rb ra n : Nat} {f g : Poly → Poly} {s t : State}
    (h : lift1Pair i rd rb ra n f g s = .next t) (hd : ⟨rd, n⟩ ∈ (operandsOf i s.params s.argv).slotDst)
    (hb : ⟨rb, n⟩ ∈ (operandsOf i s.params s.argv).slotDst) : CommandOutcome i s t := by
  rcases lift1Pair_eq_next h with ⟨e, hv, rfl⟩ | ⟨hv, as, -, hl, rfl⟩
  · exact .error e (validate_ne_noError hv)
  · have h1 := slot_le_of_valid hv (r := ⟨rd, n⟩) (List.mem_append_left _ hd)
    have h2 := slot_le_of_valid hv (r := ⟨rb, n⟩) (List.mem_append_left _ hb)
    exact .completed ((s.pm.setRange rd (as.map f)).setRange rb (as.map g)) s.bm s.matEntry s.matAcc 0 0
      (fun hp => Sparse.wfBelow_setRange (Sparse.wfBelow_setRange hp (by rw [List.length_map, hl]; exact h1))
        (by rw [List.length_map, hl]; exact h2)) id

theorem packCmd_outcome {i : Instr} {ra n len : Nat} {pack : Poly → List Byte} {s t : State}
    (h : packCmd i ra n pack s = .next t) (hlen : ∀ p, (pack p).length = len)
    (hd : ⟨s.argv.a0.toNat, n * len⟩ ∈ (operandsOf i s.params s.argv).bmDst) : CommandOutcome i s t := by
  rcases packCmd_eq_next h with ⟨e, hv, rfl⟩ | ⟨hv, ps, -, hl, rfl⟩
  · exact .error e (validate_ne_noError hv)
  · refine outcome_writeBytes ?_ 0 0
    rw [flatMap_length pack ps fun p _ => hlen p, hl]
    exact byte_le_of_valid hv (r := ⟨_, _⟩) (List.mem_append_left _ hd)

theorem unpackCmd_outcome {i : Instr} {rd n len : Nat} {unpack : List Byte → Poly} {s t : State}
    (h : unpackCmd i rd n len unpack s = .next t) (hd : ⟨rd, n⟩ ∈ (operandsOf i s.params s.argv).slotDst) :
    CommandOutcome i s t := by
  rcases unpackCmd_eq_next h with ⟨e, hv, rfl⟩ | ⟨hv, bs, -, -, rfl⟩
  · exact .error e (validate_ne_noError hv)
  · refine outcome_writeSlots ?_ 0 0
    rw [unpackVec_length]
    exact slot_le_of_valid hv (r := ⟨rd, n⟩) (List.mem_append_left _ hd)

theorem sampleCmd_outcome {i : Instr} {rd n : Nat} {sl : SeedLen} {sampler : List Byte → Except Shortage Poly}
    {mode : XofMode} {msgs : List Byte → List (List Byte)} {s t : State}
    (h : sampleCmd i rd sl sampler mode msgs s = .next t) (hn : ∀ seed, (msgs seed).length = n)
    (hm : ∀ seed, ∀ msg ∈ msgs seed, seed <+: msg) (hd : ⟨rd, n⟩ ∈ (operandsOf i s.params s.argv).slotDst)
    (hb : (operandsOf i s.params s.argv).bmSrc = [⟨s.argv.a0.toNat, sl.bytes⟩]) : CommandOutcome i s t := by
  rcases sampleCmd_eq_next h with ⟨e, hv, rfl⟩ | ⟨hv, seed, hs, ⟨x, hx, rfl⟩ | ⟨ps, hps, rfl⟩⟩
  · exact .error e (validate_ne_noError hv)
  · exact .running x _ seed hb hs (hm seed _ (runSessions_eq_error hx).2.1)
  · refine outcome_writeSlots ?_ 0 0
    rw [runSessions_length hps, hn seed]
    exact slot_le_of_valid hv (r := ⟨rd, n⟩) (List.mem_append_left _ hd)

/-! ## The commands with a meaning of their own -/

theorem execPpwms_outcome {rd ra rb : Nat} {vl : VecLen} {s t : State} (h : execPpwms rd ra rb vl s = .next t) :
    CommandOutcome (.ppwms rd ra rb vl) s t := by
  refine checked_outcome h fun hv h => ?_
  obtain ⟨as, -, hal, h⟩ := withSlots_eq_next h
  obtain ⟨bs, -, hbl, h⟩ := withSlots_eq_next h
  cases h
  refine outcome_writeSlots ?_ 0 0
  obtain ⟨a, rfl⟩ := List.length_eq_one_iff.mp hal
  have hr := slot_le_of_valid hv (r := ⟨rd, vl.count⟩) (by simp [operandsOf])
  simpa [hbl] using hr

theorem execPpwacc_outcome {rd ra rb : Nat} {vl : VecLen} {s t : State} (h : execPpwacc rd ra rb vl s = .next t) :
    CommandOutcome (.ppwacc rd ra rb vl) s t := by
  refine checked_outcome h fun hv h => ?_
  obtain ⟨as, -, -, h⟩ := withSlots_eq_next h
  obtain ⟨bs, -, -, h⟩ := withSlots_eq_next h
  cases h
  exact outcome_writeSlots (slot_le_of_valid hv (r := ⟨rd, 1⟩) (by simp [operandsOf])) 0 0

theorem execPmkhint_outcome {rd ra rb : Nat} {vl : VecLen} {s t : State} (h : execPmkhint rd ra rb vl s = .next t) :
    CommandOutcome (.pmkhint rd ra rb vl) s t := by
  refine checked_outcome h fun hv h => ?_
  obtain ⟨as, -, hal, h⟩ := withSlots_eq_next h
  obtain ⟨bs, -, hbl, h⟩ := withSlots_eq_next h
  cases h
  refine outcome_writeSlots ?_ _ 0
  have hr := slot_le_of_valid hv (r := ⟨rd, vl.count⟩) (by simp [operandsOf, dstSrcSrc])
  simpa [hal, hbl] using hr

theorem execPchknorm_outcome {ra : Nat} {vl : VecLen} {s t : State} (h : execPchknorm ra vl s = .next t) :
    CommandOutcome (.pchknorm ra vl) s t := by
  refine checked_outcome h fun _ h => ?_
  split at h
  · cases h
    exact .completed s.pm s.bm s.matEntry s.matAcc 1 0 id id
  · obtain ⟨ps, -, -, h⟩ := withSlots_eq_next h
    cases h
    exact .completed s.pm s.bm s.matEntry s.matAcc _ 0 id id

theorem execMatvec_outcome {rd ra : Nat} {sl : SeedLen} {s t : State} (h : execMatvec rd ra sl s = .next t) :
    CommandOutcome (.matvec rd ra sl) s t := by
  refine checked_outcome h fun hv h => ?_
  obtain ⟨rho, hs, h⟩ := withSeed_eq_next h
  obtain ⟨vec, -, -, h⟩ := withSlots_eq_next h
  split at h
  · rename_i x hx
    cases h
    exact .running x ⟨_, sl.bytes⟩ rho rfl hs (mem_entryMsgs (runSessions_eq_error hx).2.1)
  · rename_i es _
    cases h
    have hr := slot_le_of_valid hv (r := ⟨rd, Config.vecK⟩) (by simp [operandsOf])
    exact .completed (s.pm.setRange rd (matProduct es vec)) s.bm _ _ 0 0
      (fun hp => Sparse.wfBelow_setRange hp (by rw [matProduct_length]; exact hr)) id

theorem execSgamma1_outcome {rd : Nat} {vl : VecLen} {sl : SeedLen} {s t : State}
    (h : execSgamma1 rd vl sl s = .next t) : CommandOutcome (.sgamma1 rd vl sl) s t := by
  refine checked_outcome h fun hv h => ?_
  obtain ⟨seed, -, -, h⟩ := withBytes_eq_next h
  cases h
  refine outcome_writeSlots ?_ 0 0
  rw [List.length_map, slotMsgs_length]
  exact slot_le_of_valid hv (r := ⟨rd, vl.count⟩) (by simp [operandsOf, unpackFrom])

theorem execPkhint_outcome {ra : Nat} {s t : State} (h : execPkhint ra s = .next t) : CommandOutcome (.pkhint ra) s t := by
  refine checked_outcome h fun hv h => ?_
  obtain ⟨hs, -, hl, h⟩ := withSlots_eq_next h
  split at h
  · cases h
    exact .error _ (by decide)
  · rename_i hw
    cases h
    refine outcome_writeBytes ?_ _ 0
    rw [packHint_length hl (Nat.le_of_not_lt hw)]
    exact byte_le_of_valid hv (r := ⟨_, Config.hintBytes⟩) (by simp [operandsOf, packTo])

theorem execUpkhint_outcome {rd : Nat} {s t : State} (h : execUpkhint rd s = .next t) : CommandOutcome (.upkhint rd) s t := by
  refine checked_outcome h fun hv h => ?_
  obtain ⟨y, -, hl, h⟩ := withBytes_eq_next h
  split at h
  · rename_i hs hh
    cases h
    refine outcome_writeSlots ?_ 0 0
    rw [unpackHint_length hl hh]
    exact slot_le_of_valid hv (r := ⟨rd, Config.vecK⟩) (by simp [operandsOf, unpackFrom])
  · cases h
    exact .completed (s.pm.clearRange rd Config.vecK) s.bm s.matEntry s.matAcc 1 0
      (fun hp => Sparse.wfBelow_clearRange _ _ hp) id

theorem execPackpk_outcome {ra : Nat} {s t : State} (h : execPackpk ra s = .next t) : CommandOutcome (.packpk ra) s t := by
  refine checked_outcome h fun hv h => ?_
  obtain ⟨rho, -, hr, h⟩ := withBytes_eq_next h
  obtain ⟨t1, -, hl, h⟩ := withSlots_eq_next h
  cases h
  refine outcome_writeBytes ?_ 0 0
  rw [List.length_append, hr, flatMap_length packT1 t1 fun p _ => packPoly_length 10 _ p, hl]
  exact byte_le_of_valid hv (r := ⟨_, pkBytes⟩) (by simp [operandsOf])

theorem execUnpackpk_outcome {rd : Nat} {s t : State} (h : execUnpackpk rd s = .next t) : CommandOutcome (.unpackpk rd) s t := by
  refine checked_outcome h fun hv h => ?_
  obtain ⟨pk, -, hl, h⟩ := withBytes_eq_next h
  cases h
  have hb := byte_le_of_valid hv (r := ⟨s.argv.a1.toNat, Config.seedBytes⟩) (by simp [operandsOf])
  have hs := slot_le_of_valid hv (r := ⟨rd, Config.vecK⟩) (by simp [operandsOf])
  exact .completed (s.pm.setRange rd _) (s.bm.setRange s.argv.a1.toNat _) s.matEntry s.matAcc 0 0
    (fun hp => Sparse.wfBelow_setRange hp (by rw [unpackVec_length]; exact hs))
    (fun hp => Sparse.wfBelow_setRange hp (by rw [List.length_take, hl]; exact Nat.le_trans (Nat.add_le_add_left (Nat.min_le_left _ _) _) hb))

theorem execPacksk_outcome {rd ra rb : Nat} {s t : State} (h : execPacksk rd ra rb s = .next t) :
    CommandOutcome (.packsk rd ra rb) s t := by
  refine checked_outcome h fun hv h => ?_
  obtain ⟨rho, -, hrho, h⟩ := withBytes_eq_next h
  obtain ⟨key, -, hkey, h⟩ := withBytes_eq_next h
  obtain ⟨tr, -, htr, h⟩ := withBytes_eq_next h
  obtain ⟨s1, -, h1, h⟩ := withSlots_eq_next h
  obtain ⟨s2, -, h2, h⟩ := withSlots_eq_next h
  obtain ⟨t0, -, h0, h⟩ := withSlots_eq_next h
  cases h
  refine outcome_writeBytes ?_ 0 0
  simp only [List.length_append, hrho, hkey, htr, flatMap_length packEta _ fun p _ => packPoly_length 3 _ p,
    flatMap_length packT0 _ fun p _ => packPoly_length 13 _ p, h1, h2, h0]
  exact byte_le_of_valid hv (r := ⟨_, skBytes s.params⟩) (by simp [operandsOf])

theorem execUnpacksk_outcome {rd ra rb : Nat} {s t : State} (h : execUnpacksk rd ra rb s = .next t) :
    CommandOutcome (.unpacksk rd ra rb) s t := by
  refine checked_outcome h fun hv h => ?_
  obtain ⟨sk, -, hl, h⟩ := withBytes_eq_next h
  cases h
  have b1 := byte_le_of_valid hv (r := ⟨s.argv.a1.toNat, Config.seedBytes⟩) (by simp [operandsOf])
  have b2 := byte_le_of_valid hv (r := ⟨s.argv.a2.toNat, Config.seedBytes⟩) (by simp [operandsOf])
  have b3 := byte_le_of_valid hv (r := ⟨s.argv.a3.toNat, s.params.trBytes⟩) (by simp [operandsOf])
  have p1 := slot_le_of_valid hv (r := ⟨rd, Config.vecK⟩) (by simp [operandsOf])
  have p2 := slot_le_of_valid hv (r := ⟨ra, Config.vecL⟩) (by simp [operandsOf])
  have p3 := slot_le_of_valid hv (r := ⟨rb, Config.vecK⟩) (by simp [operandsOf])
  exact .completed (((s.pm.setRange ra _).setRange rb _).setRange rd _)
    (((s.bm.setRange s.argv.a1.toNat _).setRange s.argv.a2.toNat _).setRange s.argv.a3.toNat _) s.matEntry s.matAcc 0 0
    (fun hp => Sparse.wfBelow_setRange (Sparse.wfBelow_setRange (Sparse.wfBelow_setRange hp
      (by rw [unpackVec_length]; exact p2)) (by rw [unpackVec_length]; exact p3)) (by rw [unpackVec_length]; exact p1))
    (fun hp => Sparse.wfBelow_setRange (Sparse.wfBelow_setRange (Sparse.wfBelow_setRange hp
      (by rw [List.length_take]; exact Nat.le_trans (Nat.add_le_add_left (Nat.min_le_left _ _) _) b1))
      (by rw [List.length_take]; exact Nat.le_trans (Nat.add_le_add_left (Nat.min_le_left _ _) _) b2))
      (by rw [List.length_take]; exact Nat.le_trans (Nat.add_le_add_left (Nat.min_le_left _ _) _) b3))

theorem execPacksig_outcome {ra rb : Nat} {s t : State} (h : execPacksig ra rb s = .next t) : CommandOutcome (.packsig ra rb) s t := by
  refine checked_outcome h fun hv h => ?_
  obtain ⟨hs, -, hl, h⟩ := withSlots_eq_next h
  split at h
  · cases h
    exact .error _ (by decide)
  · rename_i hw
    obtain ⟨c, -, hc, h⟩ := withBytes_eq_next h
    obtain ⟨z, -, hz, h⟩ := withSlots_eq_next h
    cases h
    refine outcome_writeBytes ?_ _ 0
    rw [List.length_append, List.length_append, packHint_length hl (Nat.le_of_not_lt hw), hc,
      flatMap_length packZ z fun p _ => packPoly_length 20 _ p, hz]
    exact byte_le_of_valid hv (r := ⟨_, sigBytes⟩) (by simp [operandsOf])

theorem execUnpacksig_outcome {ra rb : Nat} {s t : State} (h : execUnpacksig ra rb s = .next t) :
    CommandOutcome (.unpacksig ra rb) s t := by
  refine checked_outcome h fun hv h => ?_
  obtain ⟨sig, -, hl, h⟩ := withBytes_eq_next h
  have b1 := byte_le_of_valid hv (r := ⟨s.argv.a1.toNat, Config.seedBytes⟩) (by simp [operandsOf])
  have p1 := slot_le_of_valid hv (r := ⟨ra, Config.vecL⟩) (by simp [operandsOf])
  have p2 := slot_le_of_valid hv (r := ⟨rb, Config.vecK⟩) (by simp [operandsOf])
  have hbm : Memory.wf s.params s.bm → Memory.wf s.params (s.bm.setRange s.argv.a1.toNat (sig.take Config.seedBytes)) := fun hp =>
    Sparse.wfBelow_setRange hp (by rw [List.length_take]; exact Nat.le_trans (Nat.add_le_add_left (Nat.min_le_left _ _) _) b1)
  have hz := unpackVec_length (packedBytes 20) Config.vecL unpackZ (sig.drop Config.seedBytes)
  split at h
  · rename_i hs hh
    cases h
    have hh' := unpackHint_length (by rw [List.length_drop, hl]; rfl) hh
    exact .completed ((s.pm.setRange ra _).setRange rb hs) _ s.matEntry s.matAcc 0 0
      (fun hp => Sparse.wfBelow_setRange (Sparse.wfBelow_setRange hp (by rw [hz]; exact p1)) (by rw [hh']; exact p2)) hbm
  · cases h
    exact .completed ((s.pm.setRange ra _).clearRange rb Config.vecK) _ s.matEntry s.matAcc 1 0
      (fun hp => Sparse.wfBelow_clearRange _ _ (Sparse.wfBelow_setRange hp (by rw [hz]; exact p1))) hbm

theorem execPzero_outcome {rd : Nat} {vl : VecLen} {s t : State} (h : execPzero rd vl s = .next t) :
    CommandOutcome (.pzero rd vl) s t := by
  refine checked_outcome h fun hv h => ?_
  cases h
  refine outcome_writeSlots ?_ 0 0
  rw [List.length_replicate]
  exact slot_le_of_valid hv (r := ⟨rd, vl.count⟩) (by simp [operandsOf, dst])

theorem execBzero_outcome {s t : State} (h : execBzero s = .next t) : CommandOutcome (.bzero) s t := by
  refine checked_outcome h fun hv h => ?_
  cases h
  refine outcome_writeBytes ?_ 0 0
  rw [List.length_replicate]
  exact byte_le_of_valid hv (r := ⟨s.argv.a0.toNat, s.argv.a1.toNat⟩) (by simp [operandsOf])

theorem execWipe_outcome {s t : State} (h : execWipe s = .next t) : CommandOutcome (.wipe) s t := by
  refine checked_outcome h fun _ h => ?_
  cases h
  exact .completed (s.pm.setRange 0 _) (s.bm.setRange 0 _) _ _ 0 0
    (fun hp => Sparse.wfBelow_setRange hp (by rw [List.length_replicate, Nat.zero_add]))
    (fun hp => Sparse.wfBelow_setRange hp (by rw [List.length_replicate, Nat.zero_add]))

/-- A scalar command or NOP only completes. -/
theorem outcome_complete (i : Instr) (s : State) (r r1 : Word) : CommandOutcome i s (s.complete r r1) :=
  .completed s.pm s.bm s.matEntry s.matAcc r r1 id id

/-! ## All commands -/

/-- Everything a command's turn can leave. -/
theorem exec_outcome {i : Instr} {s t : State} (h : exec i s = .next t) : CommandOutcome i s t := by
  cases i with
  | nop | smont | sred | scaddq | sp2r | sdecomp | smkhint | susehint => cases h; exact outcome_complete _ s _ _
  | padd rd ra rb vl | psub rd ra rb vl | ppwm rd ra rb vl | pusehint rd ra rb vl =>
    exact lift2_outcome h (by simp [operandsOf, dstSrcSrc])
  | pshl rd ra vl | pred rd ra vl | pcaddq rd ra vl | pntt rd ra vl | pinvntt rd ra vl =>
    exact lift1_outcome h (by simp [operandsOf, dstSrc])
  | pp2r rd ra rb vl | pdecomp rd ra rb vl =>
    exact lift1Pair_outcome h (by simp [operandsOf, dstDstSrc]) (by simp [operandsOf, dstDstSrc])
  | ppwms rd ra rb vl => exact execPpwms_outcome h
  | ppwacc rd ra rb vl => exact execPpwacc_outcome h
  | pchknorm ra vl => exact execPchknorm_outcome h
  | pmkhint rd ra rb vl => exact execPmkhint_outcome h
  | matvec rd ra sl => exact execMatvec_outcome h
  | sunif rd vl sl | seta rd vl sl =>
    exact sampleCmd_outcome h (fun _ => slotMsgs_length vl.count _ _) (fun _ _ => mem_slotMsgs)
      (by simp [operandsOf, unpackFrom]) rfl
  | sgamma1 rd vl sl => exact execSgamma1_outcome h
  | schal rd sl =>
    exact sampleCmd_outcome h (n := 1) (fun _ => rfl) (fun _ _ hm => by rw [List.mem_singleton.mp hm])
      (by simp [operandsOf, unpackFrom]) rfl
  | pkt1 ra vl => exact packCmd_outcome h (packPoly_length 10 _) (by simp [operandsOf, packTo])
  | pkt0 ra vl => exact packCmd_outcome h (packPoly_length 13 _) (by simp [operandsOf, packTo])
  | pketa ra vl => exact packCmd_outcome h (packPoly_length 3 _) (by simp [operandsOf, packTo])
  | pkz ra vl => exact packCmd_outcome h (packPoly_length 20 _) (by simp [operandsOf, packTo])
  | pkw1 ra vl => exact packCmd_outcome h (packPoly_length 4 _) (by simp [operandsOf, packTo])
  | stpoly ra vl => exact packCmd_outcome h polyImage_length (by simp [operandsOf, packTo])
  | upkt1 rd vl | upkt0 rd vl | upketa rd vl | upkz rd vl | ldpoly rd vl =>
    exact unpackCmd_outcome h (by simp [operandsOf, unpackFrom])
  | pkhint ra => exact execPkhint_outcome h
  | upkhint rd => exact execUpkhint_outcome h
  | packpk ra => exact execPackpk_outcome h
  | unpackpk rd => exact execUnpackpk_outcome h
  | packsk rd ra rb => exact execPacksk_outcome h
  | unpacksk rd ra rb => exact execUnpacksk_outcome h
  | packsig ra rb => exact execPacksig_outcome h
  | unpacksig ra rb => exact execUnpacksig_outcome h
  | pzero rd vl => exact execPzero_outcome h
  | bzero => exact execBzero_outcome h
  | wipe => exact execWipe_outcome h

end Sys2Proof.Machine
end

