-- ==== Sys2Proof/Laws/PerInstr.lean ====
section
/-! SUPPORT. Statements made of each instruction: the family OpField (spec/30_encoding.md R70, R80). -/

namespace Sys2Proof.Laws.OpField

/-- The OP value of each command's row of R80, written out once more from the table. -/
def opcode : Instr → Nat
  | .nop => 0x00
  | .smont => 0x01
  | .sred => 0x02
  | .scaddq => 0x03
  | .sp2r => 0x04
  | .sdecomp => 0x05
  | .smkhint => 0x06
  | .susehint => 0x07
  | .padd _ _ _ _ => 0x10
  | .psub _ _ _ _ => 0x11
  | .pshl _ _ _ => 0x12
  | .pred _ _ _ => 0x13
  | .pcaddq _ _ _ => 0x14
  | .ppwm _ _ _ _ => 0x15
  | .ppwms _ _ _ _ => 0x16
  | .ppwacc _ _ _ _ => 0x17
  | .pchknorm _ _ => 0x18
  | .pp2r _ _ _ _ => 0x19
  | .pdecomp _ _ _ _ => 0x1A
  | .pmkhint _ _ _ _ => 0x1B
  | .pusehint _ _ _ _ => 0x1C
  | .pntt _ _ _ => 0x20
  | .pinvntt _ _ _ => 0x21
  | .matvec _ _ _ => 0x28
  | .sunif _ _ _ => 0x30
  | .seta _ _ _ => 0x31
  | .sgamma1 _ _ _ => 0x32
  | .schal _ _ => 0x33
  | .pkt1 _ _ => 0x40
  | .upkt1 _ _ => 0x41
  | .pkt0 _ _ => 0x42
  | .upkt0 _ _ => 0x43
  | .pketa _ _ => 0x44
  | .upketa _ _ => 0x45
  | .pkz _ _ => 0x46
  | .upkz _ _ => 0x47
  | .pkw1 _ _ => 0x48
  | .pkhint _ => 0x4A
  | .upkhint _ => 0x4B
  | .packpk _ => 0x50
  | .unpackpk _ => 0x51
  | .packsk _ _ _ => 0x52
  | .unpacksk _ _ _ => 0x53
  | .packsig _ _ => 0x54
  | .unpacksig _ _ => 0x55
  | .ldpoly _ _ => 0x60
  | .stpoly _ _ => 0x61
  | .pzero _ _ => 0x62
  | .bzero => 0x63
  | .wipe => 0x64

/-- The word of a well-formed command holds its row's OP value in bits [7:0] and 0 in bits [31:29]. -/
def Statement (i : Instr) : Prop := i.wf = true → opField (encode i) = opcode i ∧ rsvField (encode i) = 0

/-- The statement for a command whose word is packed from fields that fit. -/
theorem of_fit {i : Instr} {op rd ra rb vl sl : Nat} (he : encode i = packWord op rd ra rb vl sl)
    (ho : opcode i = op) (hf : i.wf = true → FieldsFit op rd ra rb vl sl) : Statement i := fun h => by
  rw [he, ho]
  exact ⟨opField_packWord (hf h), rsvField_packWord (hf h)⟩

theorem slot_lt {x : Nat} (h : slotFits x = true) : x < 64 := of_decide_eq_true h
theorem fits_fst {a b : Bool} (h : (a && b) = true) : a = true := (Bool.and_eq_true_iff.mp h).1
theorem fits_left {x : Nat} {b : Bool} (h : (slotFits x && b) = true) : x < 64 := slot_lt (fits_fst h)
theorem fits_right {x : Nat} {b : Bool} (h : (b && slotFits x) = true) : x < 64 :=
  slot_lt (Bool.and_eq_true_iff.mp h).2

theorem nop : Statement .nop := of_fit rfl rfl fun _ => ⟨by decide, by decide, by decide, by decide, by decide, by decide⟩
theorem smont : Statement .smont := of_fit rfl rfl fun _ => ⟨by decide, by decide, by decide, by decide, by decide, by decide⟩
theorem sred : Statement .sred := of_fit rfl rfl fun _ => ⟨by decide, by decide, by decide, by decide, by decide, by decide⟩
theorem scaddq : Statement .scaddq := of_fit rfl rfl fun _ => ⟨by decide, by decide, by decide, by decide, by decide, by decide⟩
theorem sp2r : Statement .sp2r := of_fit rfl rfl fun _ => ⟨by decide, by decide, by decide, by decide, by decide, by decide⟩
theorem sdecomp : Statement .sdecomp := of_fit rfl rfl fun _ => ⟨by decide, by decide, by decide, by decide, by decide, by decide⟩
theorem smkhint : Statement .smkhint := of_fit rfl rfl fun _ => ⟨by decide, by decide, by decide, by decide, by decide, by decide⟩
theorem susehint : Statement .susehint := of_fit rfl rfl fun _ => ⟨by decide, by decide, by decide, by decide, by decide, by decide⟩
theorem padd (rd ra rb : Nat) (vl : VecLen) : Statement (.padd rd ra rb vl) :=
  of_fit rfl rfl fun h => ⟨by decide, fits_left (fits_fst h), fits_right (fits_fst h), fits_right h, vlCode_lt vl, by decide⟩
theorem psub (rd ra rb : Nat) (vl : VecLen) : Statement (.psub rd ra rb vl) :=
  of_fit rfl rfl fun h => ⟨by decide, fits_left (fits_fst h), fits_right (fits_fst h), fits_right h, vlCode_lt vl, by decide⟩
theorem pshl (rd ra : Nat) (vl : VecLen) : Statement (.pshl rd ra vl) :=
  of_fit rfl rfl fun h => ⟨by decide, fits_left h, fits_right h, by decide, vlCode_lt vl, by decide⟩
theorem pred (rd ra : Nat) (vl : VecLen) : Statement (.pred rd ra vl) :=
  of_fit rfl rfl fun h => ⟨by decide, fits_left h, fits_right h, by decide, vlCode_lt vl, by decide⟩
theorem pcaddq (rd ra : Nat) (vl : VecLen) : Statement (.pcaddq rd ra vl) :=
  of_fit rfl rfl fun h => ⟨by decide, fits_left h, fits_right h, by decide, vlCode_lt vl, by decide⟩
theorem ppwm (rd ra rb : Nat) (vl : VecLen) : Statement (.ppwm rd ra rb vl) :=
  of_fit rfl rfl fun h => ⟨by decide, fits_left (fits_fst h), fits_right (fits_fst h), fits_right h, vlCode_lt vl, by decide⟩
theorem ppwms (rd ra rb : Nat) (vl : VecLen) : Statement (.ppwms rd ra rb vl) :=
  of_fit rfl rfl fun h => ⟨by decide, fits_left (fits_fst h), fits_right (fits_fst h), fits_right h, vlCode_lt vl, by decide⟩
theorem ppwacc (rd ra rb : Nat) (vl : VecLen) : Statement (.ppwacc rd ra rb vl) :=
  of_fit rfl rfl fun h => ⟨by decide, fits_left (fits_fst h), fits_right (fits_fst h), fits_right h, vlCode_lt vl, by decide⟩
theorem pchknorm (ra : Nat) (vl : VecLen) : Statement (.pchknorm ra vl) :=
  of_fit rfl rfl fun raFits => ⟨by decide, by decide, slot_lt raFits, by decide, vlCode_lt vl, by decide⟩
theorem pp2r (rd ra rb : Nat) (vl : VecLen) : Statement (.pp2r rd ra rb vl) :=
  of_fit rfl rfl fun h => ⟨by decide, fits_left (fits_fst h), fits_right (fits_fst h), fits_right h, vlCode_lt vl, by decide⟩
theorem pdecomp (rd ra rb : Nat) (vl : VecLen) : Statement (.pdecomp rd ra rb vl) :=
  of_fit rfl rfl fun h => ⟨by decide, fits_left (fits_fst h), fits_right (fits_fst h), fits_right h, vlCode_lt vl, by decide⟩
theorem pmkhint (rd ra rb : Nat) (vl : VecLen) : Statement (.pmkhint rd ra rb vl) :=
  of_fit rfl rfl fun h => ⟨by decide, fits_left (fits_fst h), fits_right (fits_fst h), fits_right h, vlCode_lt vl, by decide⟩
theorem pusehint (rd ra rb : Nat) (vl : VecLen) : Statement (.pusehint rd ra rb vl) :=
  of_fit rfl rfl fun h => ⟨by decide, fits_left (fits_fst h), fits_right (fits_fst h), fits_right h, vlCode_lt vl, by decide⟩
theorem pntt (rd ra : Nat) (vl : VecLen) : Statement (.pntt rd ra vl) :=
  of_fit rfl rfl fun h => ⟨by decide, fits_left h, fits_right h, by decide, vlCode_lt vl, by decide⟩
theorem pinvntt (rd ra : Nat) (vl : VecLen) : Statement (.pinvntt rd ra vl) :=
  of_fit rfl rfl fun h => ⟨by decide, fits_left h, fits_right h, by decide, vlCode_lt vl, by decide⟩
theorem matvec (rd ra : Nat) (sl : SeedLen) : Statement (.matvec rd ra sl) :=
  of_fit rfl rfl fun h => ⟨by decide, fits_left h, fits_right h, by decide, by decide, seedCode_lt sl⟩
theorem sunif (rd : Nat) (vl : VecLen) (sl : SeedLen) : Statement (.sunif rd vl sl) :=
  of_fit rfl rfl fun rdFits => ⟨by decide, slot_lt rdFits, by decide, by decide, vlCode_lt vl, seedCode_lt sl⟩
theorem seta (rd : Nat) (vl : VecLen) (sl : SeedLen) : Statement (.seta rd vl sl) :=
  of_fit rfl rfl fun rdFits => ⟨by decide, slot_lt rdFits, by decide, by decide, vlCode_lt vl, seedCode_lt sl⟩
theorem sgamma1 (rd : Nat) (vl : VecLen) (sl : SeedLen) : Statement (.sgamma1 rd vl sl) :=
  of_fit rfl rfl fun rdFits => ⟨by decide, slot_lt rdFits, by decide, by decide, vlCode_lt vl, seedCode_lt sl⟩
theorem schal (rd : Nat) (sl : SeedLen) : Statement (.schal rd sl) :=
  of_fit rfl rfl fun rdFits => ⟨by decide, slot_lt rdFits, by decide, by decide, by decide, seedCode_lt sl⟩
theorem pkt1 (ra : Nat) (vl : VecLen) : Statement (.pkt1 ra vl) :=
  of_fit rfl rfl fun raFits => ⟨by decide, by decide, slot_lt raFits, by decide, vlCode_lt vl, by decide⟩
theorem upkt1 (rd : Nat) (vl : VecLen) : Statement (.upkt1 rd vl) :=
  of_fit rfl rfl fun rdFits => ⟨by decide, slot_lt rdFits, by decide, by decide, vlCode_lt vl, by decide⟩
theorem pkt0 (ra : Nat) (vl : VecLen) : Statement (.pkt0 ra vl) :=
  of_fit rfl rfl fun raFits => ⟨by decide, by decide, slot_lt raFits, by decide, vlCode_lt vl, by decide⟩
theorem upkt0 (rd : Nat) (vl : VecLen) : Statement (.upkt0 rd vl) :=
  of_fit rfl rfl fun rdFits => ⟨by decide, slot_lt rdFits, by decide, by decide, vlCode_lt vl, by decide⟩
theorem pketa (ra : Nat) (vl : VecLen) : Statement (.pketa ra vl) :=
  of_fit rfl rfl fun raFits => ⟨by decide, by decide, slot_lt raFits, by decide, vlCode_lt vl, by decide⟩
theorem upketa (rd : Nat) (vl : VecLen) : Statement (.upketa rd vl) :=
  of_fit rfl rfl fun rdFits => ⟨by decide, slot_lt rdFits, by decide, by decide, vlCode_lt vl, by decide⟩
theorem pkz (ra : Nat) (vl : VecLen) : Statement (.pkz ra vl) :=
  of_fit rfl rfl fun raFits => ⟨by decide, by decide, slot_lt raFits, by decide, vlCode_lt vl, by decide⟩
theorem upkz (rd : Nat) (vl : VecLen) : Statement (.upkz rd vl) :=
  of_fit rfl rfl fun rdFits => ⟨by decide, slot_lt rdFits, by decide, by decide, vlCode_lt vl, by decide⟩
theorem pkw1 (ra : Nat) (vl : VecLen) : Statement (.pkw1 ra vl) :=
  of_fit rfl rfl fun raFits => ⟨by decide, by decide, slot_lt raFits, by decide, vlCode_lt vl, by decide⟩
theorem pkhint (ra : Nat) : Statement (.pkhint ra) :=
  of_fit rfl rfl fun raFits => ⟨by decide, by decide, slot_lt raFits, by decide, by decide, by decide⟩
theorem upkhint (rd : Nat) : Statement (.upkhint rd) :=
  of_fit rfl rfl fun rdFits => ⟨by decide, slot_lt rdFits, by decide, by decide, by decide, by decide⟩
theorem packpk (ra : Nat) : Statement (.packpk ra) :=
  of_fit rfl rfl fun raFits => ⟨by decide, by decide, slot_lt raFits, by decide, by decide, by decide⟩
theorem unpackpk (rd : Nat) : Statement (.unpackpk rd) :=
  of_fit rfl rfl fun rdFits => ⟨by decide, slot_lt rdFits, by decide, by decide, by decide, by decide⟩
theorem packsk (rd ra rb : Nat) : Statement (.packsk rd ra rb) :=
  of_fit rfl rfl fun h => ⟨by decide, fits_left (fits_fst h), fits_right (fits_fst h), fits_right h, by decide, by decide⟩
theorem unpacksk (rd ra rb : Nat) : Statement (.unpacksk rd ra rb) :=
  of_fit rfl rfl fun h => ⟨by decide, fits_left (fits_fst h), fits_right (fits_fst h), fits_right h, by decide, by decide⟩
theorem packsig (ra rb : Nat) : Statement (.packsig ra rb) :=
  of_fit rfl rfl fun h => ⟨by decide, by decide, fits_left h, fits_right h, by decide, by decide⟩
theorem unpacksig (ra rb : Nat) : Statement (.unpacksig ra rb) :=
  of_fit rfl rfl fun h => ⟨by decide, by decide, fits_left h, fits_right h, by decide, by decide⟩
theorem ldpoly (rd : Nat) (vl : VecLen) : Statement (.ldpoly rd vl) :=
  of_fit rfl rfl fun rdFits => ⟨by decide, slot_lt rdFits, by decide, by decide, vlCode_lt vl, by decide⟩
theorem stpoly (ra : Nat) (vl : VecLen) : Statement (.stpoly ra vl) :=
  of_fit rfl rfl fun raFits => ⟨by decide, by decide, slot_lt raFits, by decide, vlCode_lt vl, by decide⟩
theorem pzero (rd : Nat) (vl : VecLen) : Statement (.pzero rd vl) :=
  of_fit rfl rfl fun rdFits => ⟨by decide, slot_lt rdFits, by decide, by decide, vlCode_lt vl, by decide⟩
theorem bzero : Statement .bzero := of_fit rfl rfl fun _ => ⟨by decide, by decide, by decide, by decide, by decide, by decide⟩
theorem wipe : Statement .wipe := of_fit rfl rfl fun _ => ⟨by decide, by decide, by decide, by decide, by decide, by decide⟩

end Sys2Proof.Laws.OpField
end

