-- ==== Sys2Proof/Tests/Slice0.lean ====
section
/-! SUPPORT. Tests of the definitions: ill-formed terms are refused, words written out from the spec's encoding decode to their
commands, and each command gives the spec's own worked values on one step from a small state. -/

section

set_option Elab.async false

namespace Sys2Proof.Tests

open Sys2Proof.Machine

/-! ## Well-formedness: a slot number of 64 fits no field (R70, R72) -/

theorem test_wellFormed_refuses_rd :
    (∀ vl, (Instr.padd 64 0 0 vl).wf = false ∧ (Instr.psub 64 0 0 vl).wf = false ∧ (Instr.pshl 64 0 vl).wf = false ∧
      (Instr.pred 64 0 vl).wf = false ∧ (Instr.pcaddq 64 0 vl).wf = false ∧ (Instr.ppwm 64 0 0 vl).wf = false ∧
      (Instr.ppwms 64 0 0 vl).wf = false ∧ (Instr.ppwacc 64 0 0 vl).wf = false ∧ (Instr.pp2r 64 0 0 vl).wf = false ∧
      (Instr.pdecomp 64 0 0 vl).wf = false ∧ (Instr.pmkhint 64 0 0 vl).wf = false ∧
      (Instr.pusehint 64 0 0 vl).wf = false ∧ (Instr.pntt 64 0 vl).wf = false ∧ (Instr.pinvntt 64 0 vl).wf = false ∧
      (Instr.upkt1 64 vl).wf = false ∧ (Instr.upkt0 64 vl).wf = false ∧ (Instr.upketa 64 vl).wf = false ∧
      (Instr.upkz 64 vl).wf = false ∧ (Instr.ldpoly 64 vl).wf = false ∧ (Instr.pzero 64 vl).wf = false) ∧
    (∀ vl sl, (Instr.sunif 64 vl sl).wf = false ∧ (Instr.seta 64 vl sl).wf = false ∧
      (Instr.sgamma1 64 vl sl).wf = false ∧ (Instr.matvec 64 0 sl).wf = false ∧ (Instr.schal 64 sl).wf = false) ∧
    (Instr.upkhint 64).wf = false ∧ (Instr.unpackpk 64).wf = false ∧ (Instr.packsk 64 0 0).wf = false ∧
    (Instr.unpacksk 64 0 0).wf = false := by
  refine ⟨fun vl => ?_, fun vl sl => ?_, ?_⟩
  · cases vl <;> decide
  · cases vl <;> cases sl <;> decide
  · decide

theorem test_wellFormed_refuses_ra :
    (∀ vl, (Instr.padd 0 64 0 vl).wf = false ∧ (Instr.psub 0 64 0 vl).wf = false ∧ (Instr.pshl 0 64 vl).wf = false ∧
      (Instr.pred 0 64 vl).wf = false ∧ (Instr.pcaddq 0 64 vl).wf = false ∧ (Instr.ppwm 0 64 0 vl).wf = false ∧
      (Instr.ppwms 0 64 0 vl).wf = false ∧ (Instr.ppwacc 0 64 0 vl).wf = false ∧ (Instr.pp2r 0 64 0 vl).wf = false ∧
      (Instr.pdecomp 0 64 0 vl).wf = false ∧ (Instr.pmkhint 0 64 0 vl).wf = false ∧
      (Instr.pusehint 0 64 0 vl).wf = false ∧ (Instr.pntt 0 64 vl).wf = false ∧ (Instr.pinvntt 0 64 vl).wf = false ∧
      (Instr.pchknorm 64 vl).wf = false ∧ (Instr.pkt1 64 vl).wf = false ∧ (Instr.pkt0 64 vl).wf = false ∧
      (Instr.pketa 64 vl).wf = false ∧ (Instr.pkz 64 vl).wf = false ∧ (Instr.pkw1 64 vl).wf = false ∧
      (Instr.stpoly 64 vl).wf = false) ∧
    (∀ sl, (Instr.matvec 0 64 sl).wf = false) ∧
    (Instr.pkhint 64).wf = false ∧ (Instr.packpk 64).wf = false ∧ (Instr.packsk 0 64 0).wf = false ∧
    (Instr.unpacksk 0 64 0).wf = false ∧ (Instr.packsig 64 0).wf = false ∧ (Instr.unpacksig 64 0).wf = false := by
  refine ⟨fun vl => ?_, fun sl => ?_, ?_⟩
  · cases vl <;> decide
  · cases sl <;> decide
  · decide

theorem test_wellFormed_refuses_rb :
    (∀ vl, (Instr.padd 0 0 64 vl).wf = false ∧ (Instr.psub 0 0 64 vl).wf = false ∧ (Instr.ppwm 0 0 64 vl).wf = false ∧
      (Instr.ppwms 0 0 64 vl).wf = false ∧ (Instr.ppwacc 0 0 64 vl).wf = false ∧ (Instr.pp2r 0 0 64 vl).wf = false ∧
      (Instr.pdecomp 0 0 64 vl).wf = false ∧ (Instr.pmkhint 0 0 64 vl).wf = false ∧
      (Instr.pusehint 0 0 64 vl).wf = false) ∧
    (Instr.packsk 0 0 64).wf = false ∧ (Instr.unpacksk 0 0 64).wf = false ∧ (Instr.packsig 0 64).wf = false ∧
    (Instr.unpacksig 0 64).wf = false := by
  refine ⟨fun vl => ?_, ?_⟩
  · cases vl <;> decide
  · decide

theorem test_wellFormed_accepts_63 :
    (Instr.padd 63 63 63 .vecK).wf = true ∧ (Instr.matvec 63 63 .s64).wf = true ∧ (Instr.packsk 63 63 63).wf = true ∧
    (Instr.unpacksig 63 63).wf = true ∧ Instr.nop.wf = true := by decide

/-! ## Decoding -/

/-- Words of the scalar commands, written out from R70 and R80: OP | RD<<8 | RA<<14 | RB<<20 | VL<<26 | S<<28. -/
theorem test_decode_scalar :
    decode 0x00000000 = .ok .nop ∧
    decode 0x00000001 = .ok .smont ∧
    decode 0x00000002 = .ok .sred ∧
    decode 0x00000003 = .ok .scaddq ∧
    decode 0x00000004 = .ok .sp2r ∧
    decode 0x00000005 = .ok .sdecomp ∧
    decode 0x00000006 = .ok .smkhint ∧
    decode 0x00000007 = .ok .susehint := by decide +kernel

/-- Words of the poly commands, written out from R70 and R80: OP | RD<<8 | RA<<14 | RB<<20 | VL<<26 | S<<28. -/
theorem test_decode_poly :
    decode 0x0AB48510 = .ok (.padd 5 18 43 .vecK) ∧
    decode 0x05183F11 = .ok (.psub 63 32 17 .vecL) ∧
    decode 0x08048512 = .ok (.pshl 5 18 .vecK) ∧
    decode 0x04083F13 = .ok (.pred 63 32 .vecL) ∧
    decode 0x08048514 = .ok (.pcaddq 5 18 .vecK) ∧
    decode 0x05183F15 = .ok (.ppwm 63 32 17 .vecL) ∧
    decode 0x0AB48516 = .ok (.ppwms 5 18 43 .vecK) ∧
    decode 0x05183F17 = .ok (.ppwacc 63 32 17 .vecL) ∧
    decode 0x08048018 = .ok (.pchknorm 18 .vecK) ∧
    decode 0x05183F19 = .ok (.pp2r 63 32 17 .vecL) ∧
    decode 0x0AB4851A = .ok (.pdecomp 5 18 43 .vecK) ∧
    decode 0x05183F1B = .ok (.pmkhint 63 32 17 .vecL) ∧
    decode 0x0AB4851C = .ok (.pusehint 5 18 43 .vecK) := by decide +kernel

/-- Words of the ntt commands, written out from R70 and R80: OP | RD<<8 | RA<<14 | RB<<20 | VL<<26 | S<<28. -/
theorem test_decode_ntt :
    decode 0x08048520 = .ok (.pntt 5 18 .vecK) ∧
    decode 0x04083F21 = .ok (.pinvntt 63 32 .vecL) ∧
    decode 0x10048528 = .ok (.matvec 5 18 .s64) := by decide +kernel

/-- Words of the sampler commands, written out from R70 and R80: OP | RD<<8 | RA<<14 | RB<<20 | VL<<26 | S<<28. -/
theorem test_decode_sampler :
    decode 0x18000530 = .ok (.sunif 5 .vecK .s64) ∧
    decode 0x04003F31 = .ok (.seta 63 .vecL .s32) ∧
    decode 0x18000532 = .ok (.sgamma1 5 .vecK .s64) ∧
    decode 0x00003F33 = .ok (.schal 63 .s32) := by decide +kernel

/-- Words of the packing commands, written out from R70 and R80: OP | RD<<8 | RA<<14 | RB<<20 | VL<<26 | S<<28. -/
theorem test_decode_packing :
    decode 0x08048040 = .ok (.pkt1 18 .vecK) ∧
    decode 0x04003F41 = .ok (.upkt1 63 .vecL) ∧
    decode 0x08048042 = .ok (.pkt0 18 .vecK) ∧
    decode 0x04003F43 = .ok (.upkt0 63 .vecL) ∧
    decode 0x08048044 = .ok (.pketa 18 .vecK) ∧
    decode 0x04003F45 = .ok (.upketa 63 .vecL) ∧
    decode 0x08048046 = .ok (.pkz 18 .vecK) ∧
    decode 0x04003F47 = .ok (.upkz 63 .vecL) ∧
    decode 0x08048048 = .ok (.pkw1 18 .vecK) ∧
    decode 0x0004804A = .ok (.pkhint 18) ∧
    decode 0x00003F4B = .ok (.upkhint 63) := by decide +kernel

/-- Words of the keysig commands, written out from R70 and R80: OP | RD<<8 | RA<<14 | RB<<20 | VL<<26 | S<<28. -/
theorem test_decode_keysig :
    decode 0x00048050 = .ok (.packpk 18) ∧
    decode 0x00003F51 = .ok (.unpackpk 63) ∧
    decode 0x02B48552 = .ok (.packsk 5 18 43) ∧
    decode 0x01183F53 = .ok (.unpacksk 63 32 17) ∧
    decode 0x02B48054 = .ok (.packsig 18 43) ∧
    decode 0x01180055 = .ok (.unpacksig 32 17) := by decide +kernel

/-- Words of the transfer commands, written out from R70 and R80: OP | RD<<8 | RA<<14 | RB<<20 | VL<<26 | S<<28. -/
theorem test_decode_transfer :
    decode 0x08000560 = .ok (.ldpoly 5 .vecK) ∧
    decode 0x04080061 = .ok (.stpoly 32 .vecL) ∧
    decode 0x08000562 = .ok (.pzero 5 .vecK) ∧
    decode 0x00000063 = .ok .bzero ∧
    decode 0x00000064 = .ok .wipe := by decide +kernel

/-- Words that are no command, one for each clause of R79 and R81. -/
theorem test_decode_refuses :
    decode 0x00000008 = .error .illegalOpcode ∧ decode 0x00000022 = .error .illegalOpcode ∧
    decode 0x00000049 = .error .illegalOpcode ∧ decode 0xFFFFFFFF = .error .illegalOpcode ∧
    decode 0x00000100 = .error .reservedField ∧ decode 0x20000010 = .error .reservedField ∧
    decode 0x0C000010 = .error .reservedField ∧ decode 0x10000010 = .error .reservedField ∧
    decode 0x04000028 = .error .reservedField ∧ decode 0x04000033 = .error .reservedField ∧
    decode 0x00100012 = .error .reservedField ∧ decode 0x00000118 = .error .reservedField ∧
    decode 0x00004030 = .error .reservedField ∧ decode 0x00000164 = .error .reservedField := by decide +kernel

/-- The host's reading of a table word: the bits above nbits are 0. -/
theorem test_decodeTableWord :
    decodeTableWord 32 0x08801010 = some (.padd 16 0 8 .vecK) ∧ decodeTableWord 32 0x49 = none ∧
    decodeTableWord 8 0xFF10 = some (.padd 0 0 0 .one) := by decide +kernel

/-! ## The stream's round constants (FIPS 202): the first, the second, the eighth and the last -/

theorem test_roundConstants : roundConstants.length = 24 ∧ roundConstants[0]? = some 1 ∧ roundConstants[1]? = some 0x8082 ∧
    roundConstants[7]? = some 0x8000000000008009 ∧ roundConstants[23]? = some 0x8000000080008008 := by decide +kernel

/-! ## One step of each command: the spec's worked values -/

/-- The polynomial whose first coefficients are given, the others 0. -/
def poly (l : List Int) : Poly := Poly.ofFn fun i => low32 (l.getD i 0)

/-- A running block with arguments a0 and a1, BM bytes from address 0, PM slots from slot 0. -/
def block (ps : List Poly) (bs : List Byte) (a0 a1 : Word) : State :=
  { State.reset with pm := cells 0 ps, bm := cells 0 bs, latch := some ⟨a0, a1, 0, 0⟩, seq := .run }

/-- RESULT and RESULT1 of a next state. -/
def results : Result → Option (Int × Int)
  | .next t => some (t.result.toInt, t.result1.toInt)
  | _ => none

/-- The first n coefficients of a slot of a next state. -/
def coeffs (x n : Nat) : Result → Option (List Int)
  | .next t => (t.pm.get x).map fun p => (p.coeffs.take n).map BitVec.toInt
  | _ => none

/-- n bytes at address a of a next state. -/
def bytes (a n : Nat) : Result → Option (List Nat)
  | .next t => (t.bm.getRange a n).map fun bs => bs.map BitVec.toNat
  | _ => none

/-- The error a next state reports. -/
def errorOf : Result → Option ErrCode
  | .next t => some t.errcode
  | _ => none

/-- No slots and no bytes. -/
def scalar (a0 a1 : Word) : State := block [] [] a0 a1

theorem test_nop : results (exec .nop (scalar 5 6)) = some (0, 0) := by decide +kernel

/-- R103: 2^32 gives 1, and -2^63 gives -2^31. -/
theorem test_smont : results (exec .smont (scalar 0 1)) = some (1, 0) ∧
    results (exec .smont (scalar 0 0x80000000)) = some (-2147483648, 0) := by decide +kernel

/-- R104. -/
theorem test_sred : results (exec .sred (scalar 4194304 0)) = some (-4186113, 0) ∧
    results (exec .sred (scalar 0x7FFFFFFF 0)) = some (2096895, 0) := by decide +kernel

/-- R105. -/
theorem test_scaddq : results (exec .scaddq (scalar 0xFFFFFFFF 0)) = some (8380416, 0) ∧
    results (exec .scaddq (scalar 0x80000000 0)) = some (-2139103231, 0) := by decide +kernel

/-- R124. -/
theorem test_sp2r : results (exec .sp2r (scalar 8191 0)) = some (1, -1) ∧
    results (exec .sp2r (scalar 0x7FFFFFFF 0)) = some (262144, -1) := by decide +kernel

/-- R125. -/
theorem test_sdecomp : results (exec .sdecomp (scalar 785665 0)) = some (2, -261887) ∧
    results (exec .sdecomp (scalar 8118529 0)) = some (0, -261888) ∧
    results (exec .sdecomp (scalar 0x7FFFFFFF 0)) = some (4, 2137008126) := by decide +kernel

/-- R126. -/
theorem test_smkhint : results (exec .smkhint (scalar 261889 0)) = some (1, 0) ∧
    results (exec .smkhint (scalar (BitVec.ofInt 32 (-261888)) 0)) = some (0, 0) ∧
    results (exec .smkhint (scalar (BitVec.ofInt 32 (-261888)) 1)) = some (1, 0) := by decide +kernel

/-- R127. -/
theorem test_susehint : results (exec .susehint (scalar 100 1)) = some (1, 0) ∧
    results (exec .susehint (scalar 0 1)) = some (15, 0) ∧
    results (exec .susehint (scalar 8118528 1)) = some (0, 0) := by decide +kernel

/-- R161. -/
theorem test_padd : coeffs 2 3 (exec (.padd 2 0 1 .one) (block [poly [5, -3, 2147483647], poly [8380417, 3, 1]] [] 0 0))
    = some [8380422, 0, -2147483648] := by decide +kernel

/-- R162. -/
theorem test_psub : coeffs 0 2 (exec (.psub 0 0 1 .one) (block [poly [1, -2147483648], poly [2, 1]] [] 0 0))
    = some [-1, 2147483647] := by decide +kernel

/-- R163. -/
theorem test_pshl : coeffs 1 3 (exec (.pshl 1 0 .one) (block [poly [1023, 262144, 262143]] [] 0 0))
    = some [8380416, -2147483648, 2147475456] := by decide +kernel

/-- R164. -/
theorem test_pred : coeffs 1 3 (exec (.pred 1 0 .one) (block [poly [4194304, 8380417, -1]] [] 0 0))
    = some [-4186113, 0, -1] := by decide +kernel

/-- R165. -/
theorem test_pcaddq : coeffs 1 3 (exec (.pcaddq 1 0 .one) (block [poly [-1, 7, -8380417]] [] 0 0))
    = some [8380416, 7, 0] := by decide +kernel

/-- R166. -/
theorem test_ppwm : coeffs 2 3 (exec (.ppwm 2 0 1 .one)
    (block [poly [4193792, 8380416, -2147483648], poly [5, 8380416, -2147483648]] [] 0 0))
    = some [5, -114592, 1073741824] := by decide +kernel

/-- R167, over 7 slots. -/
theorem test_ppwms : coeffs 14 1 (exec (.ppwms 8 0 1 .vecL)
    (block (poly [4193792] :: (List.range 7).map fun i => poly [(i : Int) + 3]) [] 0 0)) = some [9] := by decide +kernel

/-- R168: 1 + 2 + ... + 7. -/
theorem test_ppwacc : coeffs 20 1 (exec (.ppwacc 20 0 7 .vecL)
    (block (List.replicate 7 (poly [4193792]) ++ (List.range 7).map fun i => poly [(i : Int) + 1]) [] 0 0))
    = some [28] := by decide +kernel

/-- R175: below, at and above the bound, and a bound that is too large. -/
theorem test_pchknorm :
    results (exec (.pchknorm 0 .one) (block [poly [524167, -524167]] [] 524168 0)) = some (0, 0) ∧
    results (exec (.pchknorm 0 .one) (block [poly [0, -524168]] [] 524168 0)) = some (1, 0) ∧
    results (exec (.pchknorm 0 .one) (block [poly [-2147483648]] [] 1047552 0)) = some (1, 0) ∧
    results (exec (.pchknorm 0 .one) (block [poly []] [] 1047553 0)) = some (1, 0) := by decide +kernel

/-- R169. -/
theorem test_pp2r :
    coeffs 1 3 (exec (.pp2r 1 0 2 .one) (block [poly [8191, 8380416, 4096]] [] 0 0)) = some [1, 1023, 0] ∧
    coeffs 2 3 (exec (.pp2r 1 0 2 .one) (block [poly [8191, 8380416, 4096]] [] 0 0)) = some [-1, 0, 4096] := by
  decide +kernel

/-- R170. -/
theorem test_pdecomp :
    coeffs 1 3 (exec (.pdecomp 1 0 2 .one) (block [poly [1000000, 785665, 8118529]] [] 0 0)) = some [2, 2, 0] ∧
    coeffs 2 3 (exec (.pdecomp 1 0 2 .one) (block [poly [1000000, 785665, 8118529]] [] 0 0))
      = some [-47552, -261887, -261888] := by decide +kernel

/-- R171. -/
theorem test_pmkhint :
    coeffs 2 4 (exec (.pmkhint 2 0 1 .one) (block [poly [261889, -261888, -261888], poly [0, 0, 1]] [] 0 0))
      = some [1, 0, 1, 0] ∧
    results (exec (.pmkhint 2 0 1 .one) (block [poly [261889, -261888, -261888], poly [0, 0, 1]] [] 0 0))
      = some (2, 0) := by decide +kernel

/-- R172; a nonzero hint acts as 1. -/
theorem test_pusehint : coeffs 2 3 (exec (.pusehint 2 0 1 .one)
    (block [poly [1000000, 0, 1000000], poly [1, 1, -7]] [] 0 0)) = some [1, 15, 1] := by decide +kernel

/-- R143: the polynomial 1 transforms to all ones. -/
theorem test_pntt : coeffs 1 256 (exec (.pntt 1 0 .one) (block [poly [1]] [] 0 0)) = some (List.replicate 256 1) := by
  decide +kernel

/-- R144. -/
theorem test_pinvntt : coeffs 1 256 (exec (.pinvntt 1 0 .one) (block [Machine.Poly.const 1] [] 0 0))
    = some (-4186625 :: List.replicate 255 0) := by decide +kernel

/-- R190: the nonce bytes of entry (1, 2) are (2, 1); a destination that meets the source is OVERLAP. -/
theorem test_matvec : ((entryMsgs []).getD 9 []).map BitVec.toNat = [2, 1] ∧
    errorOf (exec (.matvec 3 10 .s32) (block [] [] 0 0)) = some .overlap := by decide +kernel

/-- A seed of 32 zero bytes at address 0. -/
def seeded (a1 : Word) : State := block [] (List.replicate 32 0) 0 a1

/-- R207. -/
theorem test_sunif : coeffs 0 8 (exec (.sunif 0 .one .s32) (seeded 0))
    = some [5889865, 3971968, 4850004, 6999211, 7674266, 2967789, 1694039, 7508226] := by decide +kernel

/-- R210: nonce 0 in slot 2 and nonce 1 after it would follow; here the nonce is 0x10001, whose high half is ignored. -/
theorem test_seta : coeffs 2 8 (exec (.seta 2 .one .s32) (seeded 0x10001)) = some [0, -2, 0, 1, 1, 1, -1, -2] := by
  decide +kernel

/-- R212. -/
theorem test_sgamma1 : coeffs 0 6 (exec (.sgamma1 0 .one .s32) (seeded 0))
    = some [-394410, -136800, -468055, 293491, 335980, 26935] := by decide +kernel

/-- R216. -/
theorem test_schal : coeffs 0 30 (exec (.schal 0 .s32) (seeded 0)) = some
    [0, -1, 0, 0, -1, 1, 0, 0, 0, 0, 1, 1, 0, 0, 0, 0, 0, 1, 1, 0, 0, 0, 0, 1, 0, -1, 0, 0, 0, -1] := by decide +kernel

/-- R233. -/
theorem test_pkt1 : bytes 7 6 (exec (.pkt1 0 .one) (block [poly [1, 2, 3, 4]] [] 7 0)) = some [1, 8, 48, 0, 1, 0] := by
  decide +kernel

/-- R234. -/
theorem test_upkt1 : coeffs 0 5 (exec (.upkt1 0 .one) (block [] ([1, 8, 48, 0, 1] ++ List.replicate 315 0) 0 0))
    = some [1, 2, 3, 4, 0] := by decide +kernel

/-- R235. -/
theorem test_pkt0 : bytes 0 8 (exec (.pkt0 0 .one) (block [poly [1, -1, 4096, -4095]] [] 0 0))
    = some [0xFF, 0x2F, 0x00, 0x02, 0x80, 0xFF, 0x0F, 0x00] := by decide +kernel

/-- R236. -/
theorem test_upkt0 : coeffs 0 256 (exec (.upkt0 0 .one) (block [] (List.replicate 416 0xFF) 0 0))
    = some (List.replicate 256 (-4095)) := by decide +kernel

/-- R237. -/
theorem test_pketa : bytes 0 3 (exec (.pketa 0 .one) (block [poly [2, -2, 1, -1]] [] 0 0)) = some [0x60, 0x26, 0x49] := by
  decide +kernel

/-- R238: malformed fields are not validated. -/
theorem test_upketa : coeffs 0 9 (exec (.upketa 0 .one) (block [] ([0xFF, 0xFF, 0xFF, 0x92] ++ List.replicate 92 0) 0 0))
    = some [-5, -5, -5, -5, -5, -5, -5, -5, 0] := by decide +kernel

/-- R239. -/
theorem test_pkz : bytes 0 10 (exec (.pkz 0 .one) (block [poly [524288, -524287]] [] 0 0))
    = some [0x00, 0x00, 0xF0, 0xFF, 0xFF, 0x00, 0x00, 0x08, 0x00, 0x80] := by decide +kernel

/-- R240. -/
theorem test_upkz : coeffs 0 3 (exec (.upkz 0 .one)
    (block [] ([0x00, 0x00, 0x08, 0x00, 0x80] ++ List.replicate 635 0xFF) 0 0)) = some [0, 0, -524287] := by decide +kernel

/-- R241. -/
theorem test_pkw1 : bytes 0 3 (exec (.pkw1 0 .one) (block [poly [1, 2, 15, 0, 16]] [] 0 0)) = some [0x21, 0x0F, 0x00] := by
  decide +kernel

/-- The hint vector of R244. -/
def hintVector : List Poly :=
  [Poly.ofFn fun j => if j = 3 ∨ j = 200 then 1 else 0, Machine.Poly.const 0, Poly.ofFn fun j => if j = 7 then 1 else 0,
    Machine.Poly.const 0, Machine.Poly.const 0, Machine.Poly.const 0, Machine.Poly.const 0, Poly.ofFn fun j => if j = 255 then 1 else 0]

/-- The hint table of R244. -/
def hintTable : List Byte :=
  [3, 200, 7, 255] ++ List.replicate 71 0 ++ [2, 2, 3, 3, 3, 3, 3, 4]

/-- R244. -/
theorem test_pkhint :
    bytes 0 83 (exec (.pkhint 0) (block hintVector [] 0 0)) = some (hintTable.map BitVec.toNat) ∧
    results (exec (.pkhint 0) (block hintVector [] 0 0)) = some (4, 0) ∧
    errorOf (exec (.pkhint 0) (block (List.replicate 8 (Machine.Poly.const 1)) [] 0 0)) = some .hintOverflow := by decide +kernel

/-- R247: accepted, and row 1's count below row 0's rejected. -/
theorem test_upkhint :
    results (exec (.upkhint 0) (block [] hintTable 0 0)) = some (0, 0) ∧
    coeffs 2 8 (exec (.upkhint 0) (block [] hintTable 0 0)) = some [0, 0, 0, 0, 0, 0, 0, 1] ∧
    results (exec (.upkhint 0) (block [] (hintTable.set 76 1) 0 0)) = some (1, 0) := by decide +kernel

/-- R263. -/
theorem test_packpk : bytes 4000 40 (exec (.packpk 0)
    (block (List.replicate 8 (Machine.Poly.const 0)) ((List.range 32).map (BitVec.ofNat 8)) 4000 0))
    = some (List.range 32 ++ List.replicate 8 0) := by decide +kernel

/-- R264. -/
theorem test_unpackpk :
    bytes 3000 32 (exec (.unpackpk 0) (block [] (List.replicate 2592 7) 0 3000)) = some (List.replicate 32 7) ∧
    coeffs 7 4 (exec (.unpackpk 0) (block [] (List.replicate 2592 7) 0 3000)) = some [775, 449, 112, 28] := by
  decide +kernel

/-- R265: the eta pattern from offset 96 and the t0 pattern from offset 1536. -/
theorem test_packsk :
    bytes (100 + 94) 8 (exec (.packsk 0 8 16) (block (List.replicate 24 (Machine.Poly.const 0)) (List.replicate 32 0) 100 0))
      = some [0, 0, 0x92, 0x24, 0x49, 0x92, 0x24, 0x49] ∧
    bytes (100 + 1536) 13 (exec (.packsk 0 8 16) (block (List.replicate 24 (Machine.Poly.const 0)) (List.replicate 32 0) 100 0))
      = some [0x00, 0x10, 0x00, 0x02, 0x40, 0x00, 0x08, 0x00, 0x01, 0x20, 0x00, 0x04, 0x80] := by decide +kernel

/-- R266: three raw destinations at one address overlap. -/
theorem test_unpacksk : errorOf (exec (.unpacksk 0 8 16) (block [] [] 0 5000)) = some .overlap := by decide +kernel

/-- R267. -/
theorem test_packsig :
    bytes (64 + 32) 5 (exec (.packsig 8 0) (block (hintVector ++ List.replicate 7 (Machine.Poly.const 0)) (List.replicate 32 0) 64 0))
      = some [0x00, 0x00, 0x08, 0x00, 0x80] ∧
    bytes (64 + 4512) 4 (exec (.packsig 8 0)
      (block (hintVector ++ List.replicate 7 (Machine.Poly.const 0)) (List.replicate 32 0) 64 0)) = some [3, 200, 7, 255] ∧
    results (exec (.packsig 8 0) (block (hintVector ++ List.replicate 7 (Machine.Poly.const 0)) (List.replicate 32 0) 64 0))
      = some (4, 0) := by decide +kernel

/-- R268: the z and h destinations meet; the byte ranges meet. -/
theorem test_unpacksig : errorOf (exec (.unpacksig 0 6) (block [] [] 0 8000)) = some .overlap ∧
    errorOf (exec (.unpacksig 0 7) (block [] [] 0 4594)) = some .overlap := by decide +kernel

/-- R280. -/
theorem test_ldpoly : coeffs 0 4 (exec (.ldpoly 0 .one)
    (block [] ([9, 1, 0, 0, 0, 255, 255, 255, 255, 0, 0, 0, 128] ++ List.replicate 1012 0) 1 0))
    = some [1, -1, -2147483648, 0] := by decide +kernel

/-- R281. -/
theorem test_stpoly : bytes 3 9 (exec (.stpoly 0 .one) (block [poly [1, -1]] [] 3 0))
    = some [1, 0, 0, 0, 255, 255, 255, 255, 0] := by decide +kernel

/-- R282. -/
theorem test_pzero : coeffs 15 2 (exec (.pzero 8 .vecK) (block [poly [1]] [] 0 0)) = some [0, 0] ∧
    coeffs 0 2 (exec (.pzero 8 .vecK) (block [poly [1]] [] 0 0)) = some [1, 0] := by decide +kernel

/-- R283: length 0 at the end of BM succeeds, and 0xFFFFFFFF + 2 does not wrap. -/
theorem test_bzero :
    bytes 0 4 (exec .bzero (block [] [1, 2, 3, 4] 1 2)) = some [1, 0, 0, 4] ∧
    errorOf (exec .bzero (scalar 16384 0)) = some .noError ∧
    errorOf (exec .bzero (scalar 0xFFFFFFFF 2)) = some .bmRange := by decide +kernel

/-- R284. -/
theorem test_wipe : coeffs 63 2 (exec .wipe (block [poly [1]] [1] 0 0)) = some [0, 0] ∧
    bytes 0 2 (exec .wipe (block [poly [1]] [1] 0 0)) = some [0, 0] := by decide +kernel

/-! ## The registers and the step -/

/-- R302, R303: the slot check comes before the byte check, which comes before the overlap check. -/
theorem test_checks_order :
    errorOf (exec (.pkt1 57 .vecK) (scalar 0xFFFFFFFF 0)) = some .slotRange ∧
    errorOf (exec (.pkt1 56 .vecK) (scalar 0xFFFFFFFF 0)) = some .bmRange ∧
    errorOf (exec (.padd 1 0 0 .vecL) (scalar 0 0)) = some .overlap := by decide +kernel

/-- R285: the word 0 after reset is NOP and completes. -/
theorem test_step_nop : errorOf (step (State.reset.withFetchWord 32 0)) = some .noError ∧
    errorOf (step (State.reset.withFetchWord 32 0x100)) = some .reservedField := by decide +kernel

/-! ## Witnesses: for each statement of Certificates/Slice0/Obligations.lean that has hypotheses, a state and operands that
meet all of them together -/

namespace Witness

open Sys2Proof.Spec

/-- A running block with every slot and every byte written: each slot p, each byte b. -/
def full (p : Machine.Poly) (b : Byte) (v : Args) : State :=
  { State.reset with
    pm := cells 0 (List.replicate 64 p), bm := cells 0 (List.replicate 16384 b), latch := some v, seq := .run }

theorem cells_wf {α : Type} (vs : List α) {size : Nat} (h : vs.length ≤ size) :
    Sparse.wfBelow (cells 0 vs) size :=
  ⟨pairwise_cells 0 vs, fun _ hc => Nat.lt_of_lt_of_le (mem_cells hc).2 (by omega)⟩

theorem full_pm_wf (p : Machine.Poly) (b : Byte) (v : Args) : PolyMem.wf (full p b v).params (full p b v).pm :=
  cells_wf _ (by rw [List.length_replicate]; exact Nat.le_refl 64)

theorem full_bm_wf (p : Machine.Poly) (b : Byte) (v : Args) : Memory.wf (full p b v).params (full p b v).bm :=
  cells_wf _ (by rw [List.length_replicate]; exact Nat.le_refl 16384)

theorem full_slots (p : Machine.Poly) (b : Byte) (v : Args) {x n : Nat} (h : x + n ≤ 64) :
    SlotsHold (full p b v) x (List.replicate n p) := by
  refine ⟨full_pm_wf p b v, fun k hk => ?_⟩
  rw [List.length_replicate] at hk
  simp only [full, Sparse.get_cells, List.getElem?_replicate]
  simp [hk, show x + k < 64 by omega]

theorem full_bytes (p : Machine.Poly) (b : Byte) (v : Args) {a n : Nat} (h : a + n ≤ 16384) :
    BytesHold (full p b v) a (List.replicate n b) := by
  refine ⟨full_bm_wf p b v, fun k hk => ?_⟩
  rw [List.length_replicate] at hk
  simp only [full, Sparse.get_cells, List.getElem?_replicate]
  simp [hk, show a + k < 16384 by omega]

/-- Arguments by value. -/
def argsOf (a0 a1 a2 a3 : Word) : Args := ⟨a0, a1, a2, a3⟩

/-- The polynomials 0 and 1, 1, ..., 1. -/
def zero : Machine.Poly := Machine.Poly.const 0
def ones : Machine.Poly := Machine.Poly.const 1

/-- A result that is a next state with no session open and no error. -/
def clean : Result → Bool
  | .next t => t.xof.isNone && !t.err && decide (t.seq = .idle)
  | _ => false

theorem of_clean {r : Result} (h : clean r = true) : ∃ t, r = .next t ∧ t.xof = none ∧ t.err = false ∧ t.seq = .idle := by
  cases r with
  | next t => exact ⟨t, rfl, by simpa [clean, and_assoc] using h⟩
  | fault f => cases h
  | refused f => cases h

/-! ### The invariant, reset, the registers -/

theorem witness_StepKeepsInvariant : ∃ s t, s.Inv ∧ step s = .next t := by
  obtain ⟨t, ht, -⟩ := of_clean (r := step (State.reset.withFetchWord 32 0)) (by decide +kernel)
  refine ⟨_, t, ⟨?_, ?_, ?_, ?_, ?_, ?_, ?_, fun _ h => ?_⟩, ht⟩
  · decide
  · exact Sparse.wfBelow_nil _
  · exact Sparse.wfBelow_nil _
  · decide
  · decide
  · decide
  · decide
  · cases h

/-- A sampler that goes on: the clause on the open session has a state that meets it, too. -/
theorem witness_seedCopied : ∃ (s : State) (x : XofSession), s.xof = some x ∧ s.SeedCopied x :=
  ⟨{ seeded 0 with cmd := 0x33, xof := some ⟨.shake256, List.replicate 32 0, 1008, 0, 0⟩ }, _, rfl, .schal 0 .s32, ⟨0, 32⟩,
    by decide +kernel, rfl, by decide +kernel⟩

theorem witness_ResetAbandonsCommand : ∃ (s : State) (ts : List Turn), s.turns = .reset :: ts ∧ s.seq = .run :=
  ⟨{ full ones 1 Args.zero with turns := [.reset, .host] }, [.host], rfl, rfl⟩

theorem witness_RegisterReads : State.reset.seq = .idle ∧ State.reset.params = ⟨64, 16384, 32⟩ ∧ State.reset.params.Ok ∧
    (⟨255, 16776960, 64⟩ : Config.Params).Ok := ⟨rfl, rfl, by decide, by decide⟩

theorem witness_CommandWrite : State.reset.seq = .idle ∧ (full zero 0 Args.zero).seq = .run := ⟨rfl, rfl⟩

theorem witness_OtherRegisterWrites :
    (State.reset.seq = .idle ∨ (3 : Word).getLsbD 1 = false) ∧
    ((full zero 0 Args.zero).seq = .idle ∨ (1 : Word).getLsbD 1 = false) := ⟨.inl rfl, .inr (by decide)⟩

theorem witness_InterruptOutput :
    (2 : Word).getLsbD 1 = true ∧ (0 : Word).getLsbD 0 = false ∧ State.reset.seq = .idle ∧
    ({ State.reset with done := true, ie := true } : State).irq = true := by decide

/-! ### The window -/

/-- The offsets where the clauses meet. -/
theorem witness_WindowBusErrors :
    windowTarget .design .w32 0x3C = .csr ∧ windowTarget .design .w8 0x3C = .busError ∧
    windowTarget .design .w32 0x3E = .busError ∧ windowTarget .design .w32 0x40 = .busError ∧
    windowTarget .design .w8 0x3FFF = .busError ∧ windowTarget .design .w32 0x4000 = .bm 0 ∧
    windowTarget .design .w8 0x7FFF = .bm 16383 ∧ windowTarget .design .w16 0x7FFE = .bm 16382 ∧
    windowTarget .design .w16 0x7FFF = .busError ∧ windowTarget .design .w32 0x7FFC = .bm 16380 ∧
    windowTarget .design .w32 0x7FFE = .busError ∧ windowTarget .design .w8 0x8000 = .outside ∧
    0x7FFF < 0x4000 + State.reset.params.bmSize ∧ 0x4000 + State.reset.params.bmSize ≤ 0x8000 := by decide

theorem witness_HostByteAccess :
    (Width.w32, 4) ∈ [(Width.w8, 1), (Width.w16, 2), (Width.w32, 4)] ∧ 16380 % 4 = 0 ∧ BytesFit State.reset 16380 4 ∧
    (full zero 7 Args.zero).seq = .run ∧
    (∃ s : State, s.seq = .idle ∧ BytesHold s 16380 (List.replicate 4 7)) ∧
    (State.reset.seq = .idle ∧ Memory.wf State.reset.params State.reset.bm ∧ ∃ k, k < 4 ∧ State.reset.bm.get (16380 + k) = none) :=
  ⟨by decide, by decide, by decide, rfl,
    ⟨{ full zero 7 Args.zero with seq := .idle }, rfl, full_bytes zero 7 Args.zero (a := 16380) (n := 4) (by decide)⟩,
    rfl, Sparse.wfBelow_nil _, 0, by decide, rfl⟩

theorem witness_AccessWidthsAgree : ∃ (s t : State) (a : Nat) (v : Word), Memory.wf s.params s.bm ∧ s.seq = .idle ∧ a % 4 = 0 ∧
    BytesFit s a 4 ∧ hostStore .w32 (0x4000 + a) v s = .next t := by
  obtain ⟨t, ht, -⟩ := of_clean (r := hostStore .w32 (0x4000 + 16380) 0x12345678 State.reset) (by decide +kernel)
  exact ⟨_, t, 16380, _, Sparse.wfBelow_nil _, rfl, by decide, by decide, ht⟩

/-- A host that writes CMD. -/
def commander : State :=
  { State.reset with host := { HostState.empty with prog := [csrw .cmd (.imm 0x64)] } }

theorem witness_OnlyCommandWriteStartsWork :
    (∃ t, hostTurn commander = .next t ∧ commander.seq = .idle ∧ t.seq = .run) ∧ State.reset.seq = .idle :=
  ⟨⟨_, rfl, rfl, rfl⟩, rfl⟩

theorem passes_padd (v : Args) : Passes .design v (.padd 56 48 48 .vecK) := by
  refine ⟨?_, ?_, ?_⟩
  · simp [SlotsInRange, slotsOut, slotsIn, VecLen.count, Config.vecK, Config.Params.design]
  · simp [BytesInRange, bytesOut, bytesIn]
  · simp [Overlaps, slotsOut, slotsIn, bytesOut, bytesIn, Meets, VecLen.count, Config.vecK]

/-- Both hint packers, their tables at the end of BM. -/
theorem passes_hint : Passes .design (argsOf 16301 0 0 0) (.pkhint 0) ∧
    Passes .design (argsOf 11789 0 0 0) (.packsig 8 0) := by
  refine ⟨⟨?_, ?_, ?_⟩, ?_, ?_, ?_⟩ <;>
    simp [SlotsInRange, BytesInRange, Overlaps, Meets, slotsOut, slotsIn, bytesOut, bytesIn, argsOf, Config.Params.design]

theorem witness_AbortRunningCommand :
    (∃ (s : State) (v : Args) (i : Instr), s.seq = .run ∧ s.latch = some v ∧ (2 : Word).getLsbD 1 = true ∧
      decode s.cmd = .ok i ∧ Passes s.params v i ∧ (∀ ra, i ≠ .pkhint ra) ∧ ∀ ra rb, i ≠ .packsig ra rb) ∧
    ∃ (s : State) (v : Args), s.seq = .run ∧ s.latch = some v ∧ ∀ i, decode s.cmd = .ok i → ¬ Passes s.params v i := by
  refine ⟨⟨{ full ones 1 Args.zero with cmd := encode (.padd 56 48 48 .vecK) }, Args.zero, .padd 56 48 48 .vecK, rfl, rfl,
    by decide, by decide +kernel, passes_padd _, fun _ h => (by cases h), fun _ _ h => (by cases h)⟩,
    ⟨{ full ones 1 Args.zero with cmd := 0x49 }, Args.zero, rfl, rfl, fun i h => ?_⟩⟩
  have : decode 0x49 = .error .illegalOpcode := by decide +kernel
  rw [this] at h
  cases h

/-! ### Encoding, the step, the checks -/

theorem witness_DecodeEncode : (Instr.padd 63 63 63 .vecK).wf = true ∧ (Instr.sgamma1 0 .vecL .s64).wf = true := by decide

theorem witness_EncodeDecode : decode 0x08801010 = .ok (.padd 16 0 8 .vecK) := by decide +kernel

theorem witness_HostRegisterOperations :
    (∃ (s : State) (op : HostOp), s.host.prog[s.host.pc]? = some op) ∧ State.reset.host.prog[State.reset.host.pc]? = none :=
  ⟨⟨commander, _, rfl⟩, rfl⟩

theorem witness_StepRunsDecoded :
    (∃ (s : State) (i : Instr) (ts : List Turn), s.seq = .run ∧ decode s.cmd = .ok i ∧ s.turns = .sequencer :: ts) ∧
    (∃ (s : State) (i : Instr), s.seq = .run ∧ decode s.cmd = .ok i ∧ s.turns = []) ∧
    (∃ (s : State) (ts : List Turn), s.turns = .host :: ts ∧ s.seq = .run) ∧
    (State.reset.turns = [] ∧ State.reset.seq = .idle) ∧ (Instr.packsk 63 63 63).wf = true :=
  ⟨⟨{ full zero 0 Args.zero with turns := [.sequencer, .reset] }, .nop, [.reset], rfl, by decide +kernel, rfl⟩,
    ⟨full zero 0 Args.zero, .nop, rfl, by decide +kernel, rfl⟩,
    ⟨{ full zero 0 Args.zero with turns := [.host] }, [], rfl, rfl⟩, ⟨rfl, rfl⟩, by decide⟩

theorem witness_BadWordEnds :
    (∃ s : State, s.seq = .run ∧ decode s.cmd = .error .illegalOpcode) ∧
    ∃ s : State, s.seq = .run ∧ decode s.cmd = .error .reservedField :=
  ⟨⟨{ full zero 0 Args.zero with cmd := 0xFF }, rfl, by decide +kernel⟩,
    ⟨{ full zero 0 Args.zero with cmd := 0x100 }, rfl, by decide +kernel⟩⟩

theorem witness_SlotRangeChecked : (¬ SlotsInRange .design (.padd 57 0 0 .vecK) ∧ ¬ SlotsInRange .design (.upkhint 57) ∧
    ¬ SlotsInRange .design (.pzero 64 .one)) ∧
    ∃ t, State.reset.errcode ≠ .slotRange ∧ exec (.pzero 64 .one) State.reset = .next t ∧ t.errcode = .slotRange := by
  refine ⟨by simp [SlotsInRange, slotsOut, slotsIn, VecLen.count, Config.vecK, Config.Params.design], _, by decide, rfl, rfl⟩

theorem witness_ByteRangeChecked : (∃ (i : Instr) (v : Args), SlotsInRange .design i ∧ ¬ BytesInRange .design v i) ∧
    ∃ t, State.reset.errcode ≠ .bmRange ∧
      exec .bzero { State.reset with latch := some (argsOf 16384 1 0 0) } = .next t ∧ t.errcode = .bmRange :=
  ⟨⟨.bzero, argsOf 0xFFFFFFFF 2 0 0, by simp [SlotsInRange, slotsOut, slotsIn],
    by simp [BytesInRange, bytesOut, bytesIn, argsOf, Config.Params.design]⟩, _, by decide, rfl, rfl⟩

/-- Each clause of R304: (a) one slot apart, (b) two destinations, (c) two byte ranges; and a command that never overlaps. -/
theorem witness_OverlapChecked :
    (SlotsInRange .design (.padd 1 0 0 .vecL) ∧ BytesInRange .design Args.zero (.padd 1 0 0 .vecL) ∧
      Overlaps .design Args.zero (.padd 1 0 0 .vecL)) ∧
    (SlotsInRange .design (.pp2r 0 8 0 .one) ∧ BytesInRange .design Args.zero (.pp2r 0 8 0 .one) ∧
      Overlaps .design Args.zero (.pp2r 0 8 0 .one)) ∧
    (SlotsInRange .design (.packpk 56) ∧ BytesInRange .design (argsOf 0 2591 0 0) (.packpk 56) ∧
      Overlaps .design (argsOf 0 2591 0 0) (.packpk 56)) ∧
    (∃ t, State.reset.errcode ≠ .overlap ∧
      exec (.padd 1 0 0 .vecL) { State.reset with latch := some Args.zero } = .next t ∧ t.errcode = .overlap) ∧
    neverOverlaps .wipe = true := by
  refine ⟨⟨?_, ?_, ?_⟩, ⟨?_, ?_, ?_⟩, ⟨?_, ?_, ?_⟩, ⟨_, by decide, rfl, rfl⟩, rfl⟩ <;>
    simp [SlotsInRange, BytesInRange, Overlaps, Meets, slotsOut, slotsIn, bytesOut, bytesIn, VecLen.count, Config.vecL, argsOf,
      Config.Params.design]

theorem witness_UnwrittenSourcesFault :
    (∃ (i : Instr) (s t : State) (v : Args), PolyMem.wf s.params s.pm ∧ Memory.wf s.params s.bm ∧ s.latch = some v ∧
      s.seq = .run ∧ exec i s = .next t ∧ t.seq = .idle ∧ t.err = false ∧ (∀ ra vl, i = .pchknorm ra vl → v.a0.toInt ≤ 1047552) ∧
      slotsIn i ≠ [] ∧ s.xof = none) ∧
    (∃ (i : Instr) (s t : State) (v : Args), PolyMem.wf s.params s.pm ∧ Memory.wf s.params s.bm ∧ s.latch = some v ∧
      s.seq = .run ∧ exec i s = .next t ∧ t.seq = .idle ∧ t.err = false ∧
      (∀ ra vl, i = .pchknorm ra vl → v.a0.toInt ≤ 1047552) ∧ isSampler i = false ∧ bytesIn s.params v i ≠ []) ∧
    (∃ (s : State) (v : Args), s.latch = some v ∧ v.a0.toInt > 1047552 ∧ SlotsFit s 56 VecLen.vecK.count) ∧
    (∀ i ∈ [Instr.pshl 8 0 .one, .pp2r 8 0 16 .one, .pdecomp 8 0 16 .one, .pchknorm 0 .one, .pkt1 0 .one, .pkhint 0],
      ∃ (s : State) (v : Args), PolyMem.wf s.params s.pm ∧ Memory.wf s.params s.bm ∧ s.latch = some v ∧
        Passes s.params v i ∧ v.a0.toInt ≤ 1047552 ∧ ∃ r ∈ slotsIn i, ∃ k, k < r.2 ∧ s.pm.get (r.1 + k) = none) ∧
    (∀ i ∈ [Instr.upkt1 0 .one, .upkhint 0, .unpacksk 0 8 16, .unpacksig 8 16, .sgamma1 0 .one .s32],
      ∃ (s : State) (v : Args), PolyMem.wf s.params s.pm ∧ Memory.wf s.params s.bm ∧ s.latch = some v ∧
        Passes s.params v i ∧ ∃ r ∈ bytesIn s.params v i, ∃ k, k < r.2 ∧ s.bm.get (r.1 + k) = none) ∧
    (∃ (s : State) (v : Args), PolyMem.wf s.params s.pm ∧ Memory.wf s.params s.bm ∧ s.latch = some v ∧
      Passes s.params v (.schal 0 .s32) ∧ s.xof = none ∧
      ∃ r ∈ bytesIn s.params v (.schal 0 .s32), ∃ k, k < r.2 ∧ s.bm.get (r.1 + k) = none) ∧
    ∀ x ∈ [none, some (⟨.shake128, List.replicate 32 0, 1008, 0, 0⟩ : XofSession)],
      ∃ (s : State) (v : Args) (seed : List Byte), s.xof = x ∧ PolyMem.wf s.params s.pm ∧ Memory.wf s.params s.bm ∧
        s.latch = some v ∧ seed.length = SeedLen.s32.bytes ∧ SeedHeld s v.a0.toNat seed ∧
        Passes s.params v (.matvec 0 8 .s32) ∧ ∃ k, k < 7 ∧ s.pm.get (8 + k) = none := by
  refine ⟨?_, ?_, ⟨full zero 0 (argsOf 1047553 0 0 0), _, rfl, by decide, by decide⟩, ?_, ?_, ?_, ?_⟩
  · obtain ⟨t, ht, -, he, hi⟩ := of_clean (r := exec (.pcaddq 1 0 .one) (block [ones] [] 0 0)) (by decide +kernel)
    exact ⟨_, _, t, _, cells_wf _ (by decide), cells_wf _ (by decide), rfl, rfl, ht, hi, he, fun _ _ _ => by decide,
      by simp [slotsIn], rfl⟩
  · obtain ⟨t, ht, -, he, hi⟩ := of_clean (r := exec (.upkhint 0) (block [] (List.replicate 83 0) 0 0)) (by decide +kernel)
    exact ⟨_, _, t, _, cells_wf _ (by decide), cells_wf _ (by decide), rfl, rfl, ht, hi, he, fun _ _ _ => by decide, rfl,
      by simp [bytesIn]⟩
  · intro i hi
    have hr : ∃ r ∈ slotsIn i, 0 < r.2 := by
      simp only [List.mem_cons, List.not_mem_nil, or_false] at hi
      rcases hi with rfl | rfl | rfl | rfl | rfl | rfl <;> simp [slotsIn, VecLen.count]
    obtain ⟨r, hr, hk⟩ := hr
    refine ⟨scalar 0 0, _, Sparse.wfBelow_nil _, Sparse.wfBelow_nil _, rfl, ⟨?_, ?_, ?_⟩, by decide, r, hr, 0, hk, rfl⟩ <;>
      clear hr hk <;> simp only [List.mem_cons, List.not_mem_nil, or_false] at hi <;>
      rcases hi with rfl | rfl | rfl | rfl | rfl | rfl <;>
      simp [SlotsInRange, BytesInRange, Overlaps, Meets, slotsOut, slotsIn, bytesOut, bytesIn, VecLen.count, scalar, block,
        State.reset, Config.Params.design, cells]
  · intro i hi
    let v := argsOf 0 8000 8100 8200
    have hr : ∃ r ∈ bytesIn Config.Params.design v i, 0 < r.2 := by
      simp only [List.mem_cons, List.not_mem_nil, or_false] at hi
      rcases hi with rfl | rfl | rfl | rfl | rfl <;> simp [bytesIn, VecLen.count, SeedLen.bytes, Config.Params.design]
    obtain ⟨r, hr, hk⟩ := hr
    refine ⟨{ scalar 0 0 with latch := some v }, v, Sparse.wfBelow_nil _, Sparse.wfBelow_nil _,
      rfl, ⟨?_, ?_, ?_⟩, r, hr, 0, hk, rfl⟩ <;>
      clear hr hk <;> simp only [List.mem_cons, List.not_mem_nil, or_false] at hi <;>
      rcases hi with rfl | rfl | rfl | rfl | rfl <;>
      simp [SlotsInRange, BytesInRange, Overlaps, Meets, slotsOut, slotsIn, bytesOut, bytesIn, VecLen.count, SeedLen.bytes,
        scalar, block, State.reset, Config.Params.design, v, argsOf]
  · refine ⟨scalar 0 0, _, Sparse.wfBelow_nil _, Sparse.wfBelow_nil _, rfl, ⟨?_, ?_, ?_⟩, rfl, (0, 32),
      by simp [bytesIn, SeedLen.bytes], 0, by decide, rfl⟩ <;>
      simp [SlotsInRange, BytesInRange, Overlaps, Meets, slotsOut, slotsIn, bytesOut, bytesIn, SeedLen.bytes, scalar, block,
        State.reset, Config.Params.design]
  · intro x hx
    refine ⟨{ seeded 0 with xof := x }, _, List.replicate 32 0, rfl, Sparse.wfBelow_nil _,
      cells_wf _ (show 32 ≤ 16384 by decide), rfl, rfl,
      ?_, ⟨?_, ?_, ?_⟩, 0, by decide, rfl⟩
    · rcases List.mem_cons.mp hx with rfl | hx
      · refine .inl ⟨rfl, cells_wf _ (by decide), fun k hk => ?_⟩
        simp [seeded, block, Sparse.get_cells]
      · obtain rfl := List.mem_singleton.mp hx
        exact .inr ⟨_, rfl, rfl⟩
    all_goals
      simp [SlotsInRange, BytesInRange, Overlaps, Meets, slotsOut, slotsIn, bytesOut, bytesIn, SeedLen.bytes, seeded, block,
        State.reset, Config.Params.design]

theorem witness_CommandFrame : ∃ (i : Instr) (s t : State), exec i s = .next t := ⟨.nop, State.reset, _, rfl⟩

theorem witness_ModularScalars : ∃ (s : State) (v : Args), s.latch = some v := ⟨full zero 0 Args.zero, _, rfl⟩

theorem witness_RoundingScalars : ∃ (s : State) (v : Args), s.latch = some v := ⟨full zero 0 Args.zero, _, rfl⟩

/-! ### Arithmetic: the ends of the ranges -/

theorem witness_MontgomeryReduces : ∃ a : Int, -(2147483648 * 8380417) ≤ a ∧ a < 2147483648 * 8380417 := ⟨0, by decide⟩

theorem witness_PartialReductions :
    ((-2147483648 : Int) ≤ 2143289343 ∧ (2143289343 : Int) ≤ 2143289343) ∧
    ((2143289344 : Int) ≤ 2143289344 ∧ (2143289344 : Int) ≤ 2147483647) ∧
    ((-8380417 : Int) < -8380416 ∧ (-8380416 : Int) < 8380417) ∧ (-8380418 : Int) < -8380417 := by decide

theorem witness_PowerOfTwoSplit : ((0 : Int) ≤ 8380416 ∧ (8380416 : Int) < 8380417) ∧ (0 : Int) ≤ 1023 ∧ (1023 : Int) ≤ 1023 := by
  decide

theorem witness_BucketSplit : ((0 : Int) ≤ 8118529 ∧ (8118529 : Int) < 8380417) ∧ (0 : Int) ≤ 15 ∧ (15 : Int) ≤ 15 := by decide

/-! ### Polynomial commands: K slots, at the top of PM -/

theorem witness_TwoSourceLifts : ∃ (s : State) (rd ra rb : Nat) (vl : VecLen) (as bs : List Machine.Poly),
    as.length = vl.count ∧ bs.length = vl.count ∧ SlotsHold s ra as ∧ SlotsHold s rb bs ∧ SlotsFit s rd vl.count ∧
    SlotsFit s ra vl.count ∧ SlotsFit s rb vl.count ∧ SameOrApart rd ra vl.count ∧ SameOrApart rd rb vl.count :=
  ⟨full ones 0 Args.zero, 56, 56, 48, .vecK, _, _, List.length_replicate, List.length_replicate,
    full_slots _ _ _ (by decide), full_slots _ _ _ (by decide), by decide, by decide, by decide, .inl rfl,
    .inr (.inr (by decide))⟩

theorem witness_MakeHintVector : ∃ (s : State) (rd ra rb : Nat) (vl : VecLen) (as bs : List Machine.Poly),
    as.length = vl.count ∧ bs.length = vl.count ∧ SlotsHold s ra as ∧ SlotsHold s rb bs ∧ SlotsFit s rd vl.count ∧
    SlotsFit s ra vl.count ∧ SlotsFit s rb vl.count ∧ SameOrApart rd ra vl.count ∧ SameOrApart rd rb vl.count :=
  witness_TwoSourceLifts

theorem witness_OneSourceLifts : ∃ (s : State) (rd ra : Nat) (vl : VecLen) (as : List Machine.Poly),
    as.length = vl.count ∧ SlotsHold s ra as ∧ SlotsFit s rd vl.count ∧ SlotsFit s ra vl.count ∧ SameOrApart rd ra vl.count :=
  ⟨full ones 0 Args.zero, 57, 50, .vecL, _, List.length_replicate, full_slots _ _ _ (by decide), by decide, by decide,
    .inr (.inr (by decide))⟩

theorem witness_TransformsAreTheLoops : ∃ (s : State) (rd ra : Nat) (vl : VecLen) (as : List Machine.Poly),
    as.length = vl.count ∧ SlotsHold s ra as ∧ SlotsFit s rd vl.count ∧ SlotsFit s ra vl.count ∧ SameOrApart rd ra vl.count :=
  witness_OneSourceLifts

theorem witness_TwoResultLifts : ∃ (s : State) (rd ra rb : Nat) (vl : VecLen) (as : List Machine.Poly),
    as.length = vl.count ∧ SlotsHold s ra as ∧ SlotsFit s rd vl.count ∧ SlotsFit s ra vl.count ∧ SlotsFit s rb vl.count ∧
    SameOrApart rd ra vl.count ∧ SameOrApart rb ra vl.count ∧ Apart rd vl.count rb vl.count :=
  ⟨full ones 0 Args.zero, 56, 56, 48, .vecK, _, List.length_replicate, full_slots _ _ _ (by decide), by decide, by decide,
    by decide, .inl rfl, .inr (.inl (by decide)), .inr (by decide)⟩

theorem witness_VectorMultipliers :
    (∃ (s : State) (rd ra rb : Nat) (vl : VecLen) (as bs : List Machine.Poly), bs.length = vl.count ∧ SlotsHold s rb bs ∧
      SlotsFit s rb vl.count ∧ SlotsHold s ra as ∧ as.length = 1 ∧ SlotsFit s ra 1 ∧ SlotsFit s rd vl.count ∧
      SameOrApart rd rb vl.count ∧ ((vl.count = 1 ∧ rd = ra) ∨ Apart rd vl.count ra 1)) ∧
    ∃ (s : State) (rd ra rb : Nat) (vl : VecLen) (as bs : List Machine.Poly), bs.length = vl.count ∧ SlotsHold s rb bs ∧
      SlotsFit s rb vl.count ∧ SlotsHold s ra as ∧ as.length = vl.count ∧ SlotsFit s ra vl.count ∧ SlotsFit s rd 1 ∧
      ((vl.count = 1 ∧ rd = ra) ∨ Apart rd 1 ra vl.count) ∧ ((vl.count = 1 ∧ rd = rb) ∨ Apart rd 1 rb vl.count) :=
  ⟨⟨full ones 0 Args.zero, 56, 55, 56, .vecK, _, _, List.length_replicate, full_slots _ _ _ (by decide), by decide,
      full_slots (n := 1) _ _ _ (by decide), rfl, by decide, by decide, .inl rfl, .inr (.inr (by decide))⟩,
    ⟨full ones 0 Args.zero, 63, 55, 55, .vecK, _, _, List.length_replicate, full_slots _ _ _ (by decide), by decide,
      full_slots _ _ _ (by decide), List.length_replicate, by decide, by decide, .inr (.inr (by decide)),
      .inr (.inr (by decide))⟩⟩

theorem witness_NormCheck : ∃ (s : State) (v : Args) (ra : Nat) (vl : VecLen) (ps : List Machine.Poly), s.latch = some v ∧
    ps.length = vl.count ∧ SlotsHold s ra ps ∧ SlotsFit s ra vl.count :=
  ⟨full ones 0 (argsOf 1047552 0 0 0), _, 56, .vecK, _, rfl, List.length_replicate, full_slots _ _ _ (by decide),
    by decide⟩

theorem coeff_const (x : Word) {i : Nat} (h : i < 256) : (Machine.Poly.const x).coeff i = x.toInt := by
  simp [Machine.Poly.const, Machine.Poly.coeff, List.getD, h]

theorem witness_TransformBounds : ∃ (p : Machine.Poly) (b : Int), (∀ i, i < 256 → |p.coeff i| ≤ b) ∧
    b + 8 * 8380416 < 2147483648 :=
  ⟨Machine.Poly.const (BitVec.ofInt 32 (-2080440319)), 2080440319, fun i hi => by rw [coeff_const _ hi]; decide, by decide⟩

theorem witness_ForwardTransformEvaluates : ∃ (p : Machine.Poly) (b : Int), (∀ i, i < 256 → |p.coeff i| ≤ b) ∧
    b + 8 * 8380416 < 2147483648 := witness_TransformBounds

theorem witness_InverseOfForward : ∃ p : Machine.Poly, ∀ i, i < 256 → |p.coeff i| < 8380417 :=
  ⟨Machine.Poly.const 8380416, fun i hi => by rw [coeff_const _ hi]; decide⟩

/-! ### Samplers: a seed of zero bytes at the end of BM -/

/-- The candidates read by index are those read by threes. -/
theorem candidates_eq (bs : List Byte) :
    ((List.range (bs.length / 3)).map fun m =>
      (byteAt bs (3 * m) + 256 * byteAt bs (3 * m + 1) + 65536 * byteAt bs (3 * m + 2)) % 8388608) =
    uniformCandidates bs := by
  induction bs using uniformCandidates.induct with
  | case1 b0 b1 b2 bs ih =>
    rw [uniformCandidates, ← ih, show (b0 :: b1 :: b2 :: bs).length / 3 = bs.length / 3 + 1 by
      simp only [List.length_cons]; omega, List.range_succ_eq_map, List.map_cons, List.map_map]
    refine congrArg₂ _ rfl (List.map_congr_left fun m _ => ?_)
    simp only [Function.comp, byteAt, show 3 * Nat.succ m = 3 * m + 1 + 1 + 1 by omega,
      show 3 * m + 1 + 1 + 1 + 1 = (3 * m + 1) + 1 + 1 + 1 by omega,
      show 3 * m + 1 + 1 + 1 + 2 = (3 * m + 2) + 1 + 1 + 1 by omega, List.getD_cons_succ]
  | case2 bs h =>
    have : bs.length / 3 = 0 := by
      rcases bs with - | ⟨b0, - | ⟨b1, - | ⟨b2, l⟩⟩⟩
      · rfl
      · rw [List.length_singleton]
      · rw [List.length_cons, List.length_singleton]
      · exact absurd rfl (h b0 b1 b2 l)
    rw [this]
    unfold uniformCandidates
    split
    · rename_i b0 b1 b2 l
      exact absurd rfl (h b0 b1 b2 l)
    · rfl

/-- The stream with this nonce has 256 acceptable values among its first 839 bytes, seed 0. -/
def enough (nonce : Nat) : Bool :=
  decide (256 ≤ ((uniformCandidates (stream .shake128 (List.replicate 32 0) nonce 839)).filter
    fun (t : Nat) => decide (t < 8380417)).length)

theorem of_enough {nonce : Nat} (h : enough nonce = true) :
    256 ≤ (uniformAccepted (stream .shake128 (List.replicate 32 0) nonce 839)).length := by
  rw [uniformAccepted, candidates_eq, List.length_map]
  exact of_decide_eq_true h

theorem enough_row0 : ∀ c < 7, enough (256 * 0 + c) = true := by decide +kernel
theorem enough_row1 : ∀ c < 7, enough (256 * 1 + c) = true := by decide +kernel
theorem enough_row2 : ∀ c < 7, enough (256 * 2 + c) = true := by decide +kernel
theorem enough_row3 : ∀ c < 7, enough (256 * 3 + c) = true := by decide +kernel
theorem enough_row4 : ∀ c < 7, enough (256 * 4 + c) = true := by decide +kernel
theorem enough_row5 : ∀ c < 7, enough (256 * 5 + c) = true := by decide +kernel
theorem enough_row6 : ∀ c < 7, enough (256 * 6 + c) = true := by decide +kernel
theorem enough_row7 : ∀ c < 7, enough (256 * 7 + c) = true := by decide +kernel

theorem enough_all {k c : Nat} (hk : k < 8) (hc : c < 7) : enough (256 * k + c) = true := by
  interval_cases k
  · exact enough_row0 c hc
  · exact enough_row1 c hc
  · exact enough_row2 c hc
  · exact enough_row3 c hc
  · exact enough_row4 c hc
  · exact enough_row5 c hc
  · exact enough_row6 c hc
  · exact enough_row7 c hc

theorem witness_SampleUniform : ∃ (s : State) (v : Args) (rd : Nat) (vl : VecLen) (sl : SeedLen) (seed : List Byte) (n : Nat),
    s.latch = some v ∧ seed.length = sl.bytes ∧ SeedHeld s v.a0.toNat seed ∧ BytesFit s v.a0.toNat sl.bytes ∧
    SlotsFit s rd vl.count ∧ n ≤ 1008 ∧
    ∀ k, k < vl.count → 256 ≤ (uniformAccepted (stream .shake128 seed (nonceOf v k) n)).length := by
  refine ⟨full zero 0 (argsOf 16352 0 0 0), argsOf 16352 0 0 0, 57, .vecL, .s32, List.replicate 32 0, 839, rfl, rfl,
    .inl ⟨rfl, full_bytes _ _ _ (by decide)⟩, by decide, by decide, by decide, fun k hk => ?_⟩
  have hk7 : k < 7 := hk
  have := of_enough (enough_row0 k hk7)
  rwa [show 256 * 0 + k = nonceOf (argsOf 16352 0 0 0) k by simp [nonceOf, argsOf]; omega] at this

theorem eta_enough : 256 ≤ (etaAccepted (stream .shake256 (List.replicate 32 0) 0 144)).length := by decide +kernel

theorem witness_SampleEta : ∃ (s : State) (v : Args) (rd : Nat) (vl : VecLen) (sl : SeedLen) (seed : List Byte) (n : Nat),
    s.latch = some v ∧ seed.length = sl.bytes ∧ SeedHeld s v.a0.toNat seed ∧ BytesFit s v.a0.toNat sl.bytes ∧
    SlotsFit s rd vl.count ∧ n ≤ 1008 ∧
    ∀ k, k < vl.count → 256 ≤ (etaAccepted (stream .shake256 seed (nonceOf v k) n)).length := by
  refine ⟨full zero 0 (argsOf 16352 0 0 0), argsOf 16352 0 0 0, 63, .one, .s32, List.replicate 32 0, 144, rfl, rfl,
    .inl ⟨rfl, full_bytes _ _ _ (by decide)⟩, by decide, by decide, by decide, fun k hk => ?_⟩
  have hk1 : k < 1 := hk
  obtain rfl : k = 0 := by omega
  exact eta_enough

theorem witness_SampleGamma1 : ∃ (s : State) (v : Args) (rd : Nat) (vl : VecLen) (sl : SeedLen) (seed : List Byte),
    s.latch = some v ∧ seed.length = sl.bytes ∧ BytesHold s v.a0.toNat seed ∧ BytesFit s v.a0.toNat sl.bytes ∧
    SlotsFit s rd vl.count :=
  ⟨full zero 0 (argsOf 16320 0xFFFF 0 0), _, 56, .vecK, .s64, List.replicate 64 0, rfl, rfl, full_bytes _ _ _ (by decide),
    by decide, by decide⟩

theorem challenge_ends : (challengeLoop (xofPrefix .shake256 (List.replicate 32 0) 135)).isSome = true := by decide +kernel

theorem witness_SampleChallenge : ∃ (s : State) (v : Args) (rd : Nat) (sl : SeedLen) (seed : List Byte) (n : Nat)
    (c : List Int), s.latch = some v ∧ seed.length = sl.bytes ∧ SeedHeld s v.a0.toNat seed ∧
    BytesFit s v.a0.toNat sl.bytes ∧ SlotsFit s rd 1 ∧ n ≤ 1008 ∧ challengeLoop (xofPrefix .shake256 seed n) = some c := by
  obtain ⟨c, hc⟩ := Option.isSome_iff_exists.mp challenge_ends
  exact ⟨full zero 0 (argsOf 16352 0 0 0), argsOf 16352 0 0 0, 63, .s32, List.replicate 32 0, 135, c, rfl, rfl,
    .inl ⟨rfl, full_bytes _ _ _ (by decide)⟩, by decide, by decide, by decide, hc⟩

/-- Each of the four samplers gives a polynomial on some stream. -/
theorem witness_SamplerRanges : (∃ bs p, uniformSample bs = .ok p) ∧ (∃ bs p, etaSample bs = .ok p) ∧
    (∃ bs p, gamma1Poly bs = p) ∧ ∃ bs p, challengeSample bs = .ok p := by
  have ok_of {r : Except Shortage Machine.Poly} (h : r.isOk = true) : ∃ p, r = .ok p := by
    cases r with
    | ok p => exact ⟨p, rfl⟩
    | error e => cases h
  exact ⟨⟨List.replicate 768 0, ok_of (by decide +kernel)⟩, ⟨List.replicate 128 0, ok_of (by decide +kernel)⟩,
    ⟨[], _, rfl⟩, ⟨List.replicate 68 0, ok_of (by decide +kernel)⟩⟩

theorem witness_SamplerTurnsAgree : ∃ (i : Instr) (s t : State) (v : Args) (x : XofSession), isSampler i = true ∧
    s.latch = some v ∧ Memory.wf s.params s.bm ∧ s.xof = none ∧ exec i s = .next t ∧ t.xof = none ∧
    ∀ r ∈ bytesIn s.params v i, ∀ k, k < r.2 → x.msg[k]? = s.bm.get (r.1 + k) := by
  obtain ⟨t, ht, hx, -⟩ := of_clean (r := exec (.schal 0 .s32) (seeded 0)) (by decide +kernel)
  refine ⟨_, _, t, _, ⟨.shake256, List.replicate 32 0, 1008, 0, 0⟩, rfl, rfl, cells_wf _ (by decide), rfl, ht, hx,
    fun r hr k _ => ?_⟩
  obtain rfl := List.mem_singleton.mp hr
  simp [seeded, block, Sparse.get_cells]

/-- The sampler statements also hold of a turn with a session open: the seed is its message's. -/
theorem witness_SeedHeld : ∃ (s : State) (seed : List Byte), seed.length = 32 ∧ s.xof ≠ none ∧ SeedHeld s 0 seed :=
  ⟨{ scalar 0 0 with xof := some ⟨.shake128, List.replicate 34 5, 1008, 0, 0⟩ }, List.replicate 32 5, rfl,
    fun h => (by cases h), .inr ⟨_, rfl, rfl⟩⟩

theorem witness_MatrixVectorProduct : ∃ (s : State) (v : Args) (rd ra : Nat) (sl : SeedLen) (rho : List Byte)
    (vec : List Machine.Poly) (n : Nat), s.latch = some v ∧ rho.length = sl.bytes ∧ SeedHeld s v.a0.toNat rho ∧
    BytesFit s v.a0.toNat sl.bytes ∧ vec.length = 7 ∧ SlotsHold s ra vec ∧ SlotsFit s rd 8 ∧ SlotsFit s ra 7 ∧ Apart rd 8 ra 7 ∧
    n ≤ 1008 ∧ ∀ k c, k < 8 → c < 7 → 256 ≤ (uniformAccepted (stream .shake128 rho (256 * k + c) n)).length :=
  ⟨full ones 0 (argsOf 16352 0 0 0), argsOf 16352 0 0 0, 49, 57, .s32, List.replicate 32 0, List.replicate 7 ones, 839, rfl,
    rfl, .inl ⟨rfl, full_bytes _ _ _ (by decide)⟩, by decide, rfl, full_slots _ _ _ (by decide), by decide, by decide,
    .inl (by decide), by decide, fun _ _ hk hc => of_enough (enough_all hk hc)⟩

/-! ### Packing: ranges that end at the end of BM -/

theorem witness_PackFormats : ∀ w ∈ [10, 13, 3, 20, 4], ∃ (s : State) (v : Args) (ra : Nat) (vl : VecLen)
    (ps : List Machine.Poly), s.latch = some v ∧ ps.length = vl.count ∧ SlotsHold s ra ps ∧ SlotsFit s ra vl.count ∧
    BytesFit s v.a0.toNat (vl.count * (32 * w)) := by
  intro w hw
  refine ⟨full ones 0 (argsOf 11264 0 0 0), argsOf 11264 0 0 0, 56, .vecK, List.replicate 8 ones, rfl, rfl,
    full_slots _ _ _ (by decide), by decide, ?_⟩
  revert w
  decide

theorem witness_UnpackFormats : ∀ w ∈ [10, 13, 3, 20], ∃ (s : State) (v : Args) (rd : Nat) (vl : VecLen) (bs : List Byte),
    s.latch = some v ∧ BytesHold s v.a0.toNat bs ∧ BytesFit s v.a0.toNat bs.length ∧ SlotsFit s rd vl.count ∧
    bs.length = vl.count * (32 * w) := by
  intro w hw
  have hle : 11264 + VecLen.vecK.count * (32 * w) ≤ 16384 := by
    revert w
    decide
  exact ⟨full ones 0xFF (argsOf 11264 0 0 0), argsOf 11264 0 0 0, 56, .vecK, List.replicate (VecLen.vecK.count * (32 * w)) 0xFF,
    rfl, full_bytes _ _ _ hle, by rw [List.length_replicate]; exact hle, by decide, List.length_replicate⟩

theorem witness_PackRoundTrip :
    (∀ j, j < 256 → 0 ≤ (Machine.Poly.const 1023).coeff j ∧ (Machine.Poly.const 1023).coeff j ≤ 1023) ∧
    (∀ j, j < 256 → -4095 ≤ (Machine.Poly.const 4096).coeff j ∧ (Machine.Poly.const 4096).coeff j ≤ 4096) ∧
    (∀ j, j < 256 → -2 ≤ (Machine.Poly.const 2).coeff j ∧ (Machine.Poly.const 2).coeff j ≤ 2) ∧
    (∀ j, j < 256 → -524287 ≤ (Machine.Poly.const 524288).coeff j ∧ (Machine.Poly.const 524288).coeff j ≤ 524288) ∧
    (List.replicate 320 (0xFF : Byte)).length = 320 := by
  refine ⟨fun j hj => ?_, fun j hj => ?_, fun j hj => ?_, fun j hj => ?_, List.length_replicate⟩ <;> rw [coeff_const _ hj] <;> decide

/-- 75 ones in row 0, and one more in row 7 where more is true. -/
def hints (more : Bool) : List Machine.Poly :=
  Machine.Poly.ofFn (fun j => if j < 75 then 1 else 0) :: List.replicate 6 zero ++ [if more then poly [1] else zero]

/-- A block with a hint vector in slots 0 to 7 and z in 8 to 14, and zero bytes. -/
def hintBlock (more : Bool) (a0 a1 : Word) : State :=
  { State.reset with
    pm := cells 0 (hints more ++ List.replicate 7 ones), bm := cells 0 (List.replicate 16384 0)
    latch := some (argsOf a0 a1 0 0), seq := .run }

theorem hints_length (more : Bool) : (hints more).length = 8 := by cases more <;> rfl

theorem hintBlock_slots (more : Bool) (a0 a1 : Word) : SlotsHold (hintBlock more a0 a1) 0 (hints more) := by
  refine ⟨cells_wf _ (show (hints more ++ List.replicate 7 ones).length ≤ 64 by simp [hints_length]), fun k hk => ?_⟩
  simp only [hintBlock, Sparse.get_cells, Nat.zero_le, if_true, Nat.sub_zero, Nat.zero_add]
  rw [List.getElem?_append_left hk]

theorem hints_weight : weight8 (hints false) = 75 ∧ weight8 (hints true) = 76 := by decide +kernel

/-- An abort of either hint packer: hint slots of weight 76, and of weight 75. -/
theorem witness_AbortRunningCommand_hint : ∀ more : Bool,
    ∀ c ∈ [(Instr.pkhint 0, argsOf 16301 0 0 0), (Instr.packsig 8 0, argsOf 11789 0 0 0)],
    ∃ (s : State) (h : List Machine.Poly), s.seq = .run ∧ s.latch = some c.2 ∧ decode s.cmd = .ok c.1 ∧
      Passes s.params c.2 c.1 ∧ (c.1 = .pkhint 0 ∨ ∃ ra, c.1 = .packsig ra 0) ∧ PolyMem.wf s.params s.pm ∧
      h.length = 8 ∧ SlotsHold s 0 h ∧ (75 < weight8 h ↔ more = true) := by
  intro more c hc
  refine ⟨{ hintBlock more c.2.a0 0 with cmd := encode c.1 }, hints more, rfl, ?_, ?_, ?_, ?_, (hintBlock_slots _ 0 0).1,
    hints_length _, ⟨(hintBlock_slots more 0 0).1, (hintBlock_slots more 0 0).2⟩, ?_⟩
  · rcases List.mem_cons.mp hc with rfl | hc
    · rfl
    · obtain rfl := List.mem_singleton.mp hc
      rfl
  · rcases List.mem_cons.mp hc with rfl | hc
    · exact (by decide +kernel : decode (encode (.pkhint 0)) = .ok (.pkhint 0))
    · obtain rfl := List.mem_singleton.mp hc
      exact (by decide +kernel : decode (encode (.packsig 8 0)) = .ok (.packsig 8 0))
  · rcases List.mem_cons.mp hc with rfl | hc
    · exact passes_hint.1
    · obtain rfl := List.mem_singleton.mp hc
      exact passes_hint.2
  · rcases List.mem_cons.mp hc with rfl | hc
    · exact .inl rfl
    · obtain rfl := List.mem_singleton.mp hc
      exact .inr ⟨_, rfl⟩
  · cases more
    · rw [hints_weight.1]; decide
    · rw [hints_weight.2]; decide

theorem witness_PackHintTable : (∃ (s : State) (v : Args) (h : List Machine.Poly), s.latch = some v ∧ h.length = 8 ∧
      SlotsHold s 0 h ∧ BytesFit s v.a0.toNat 83 ∧ 75 < weight8 h) ∧
    ∃ (s : State) (v : Args) (h : List Machine.Poly), s.latch = some v ∧ h.length = 8 ∧ SlotsHold s 0 h ∧
      BytesFit s v.a0.toNat 83 ∧ weight8 h ≤ 75 :=
  ⟨⟨hintBlock true 16301 0, _, hints true, rfl, hints_length _, hintBlock_slots _ _ _, by decide,
      by rw [hints_weight.2]; decide⟩,
    ⟨hintBlock false 16301 0, _, hints false, rfl, hints_length _, hintBlock_slots _ _ _, by decide,
      by rw [hints_weight.1]⟩⟩

theorem empty_table : (unpackHintLoop (numbers (List.replicate 83 0))).isSome = true ∧
    unpackHintLoop (numbers (List.replicate 83 0xFF)) = none := by decide +kernel

theorem witness_UnpackHintTable : (∃ (s : State) (v : Args) (y : List Byte) (h : List (List Int)), s.latch = some v ∧
      y.length = 83 ∧ BytesHold s v.a0.toNat y ∧ BytesFit s v.a0.toNat 83 ∧ SlotsFit s 56 8 ∧
      unpackHintLoop (numbers y) = some h) ∧
    ∃ (s : State) (v : Args) (y : List Byte), s.latch = some v ∧ y.length = 83 ∧ BytesHold s v.a0.toNat y ∧
      BytesFit s v.a0.toNat 83 ∧ SlotsFit s 56 8 ∧ unpackHintLoop (numbers y) = none := by
  obtain ⟨h, hh⟩ := Option.isSome_iff_exists.mp empty_table.1
  exact ⟨⟨full ones 0 (argsOf 16301 0 0 0), argsOf 16301 0 0 0, List.replicate 83 0, h, rfl, rfl,
      full_bytes _ _ _ (by decide), by decide, by decide, hh⟩,
    ⟨full ones 0xFF (argsOf 16301 0 0 0), argsOf 16301 0 0 0, List.replicate 83 0xFF, rfl, rfl,
      full_bytes _ _ _ (by decide), by decide, by decide, empty_table.2⟩⟩

theorem witness_PackKeysAndSignature :
    (∃ (s : State) (v : Args) (ra : Nat) (rho : List Byte) (t1 : List Machine.Poly), s.latch = some v ∧ rho.length = 32 ∧
      BytesHold s v.a1.toNat rho ∧ t1.length = 8 ∧ SlotsHold s ra t1 ∧ SlotsFit s ra 8 ∧ BytesFit s v.a0.toNat 2592 ∧
      BytesFit s v.a1.toNat 32 ∧ Apart v.a0.toNat 2592 v.a1.toNat 32) ∧
    (∃ (s : State) (v : Args) (rd ra rb : Nat) (rho key tr : List Byte) (s1 s2 t0 : List Machine.Poly), s.latch = some v ∧
      rho.length = 32 ∧ BytesHold s v.a1.toNat rho ∧ key.length = 32 ∧ BytesHold s v.a2.toNat key ∧ tr.length = s.params.trBytes ∧
      BytesHold s v.a3.toNat tr ∧ s1.length = 7 ∧ SlotsHold s ra s1 ∧ s2.length = 8 ∧ SlotsHold s rb s2 ∧ t0.length = 8 ∧
      SlotsHold s rd t0 ∧ SlotsFit s rd 8 ∧ SlotsFit s ra 7 ∧ SlotsFit s rb 8 ∧ BytesFit s v.a0.toNat (4832 + s.params.trBytes) ∧
      BytesFit s v.a1.toNat 32 ∧ BytesFit s v.a2.toNat 32 ∧ BytesFit s v.a3.toNat s.params.trBytes ∧
      Apart v.a0.toNat (4832 + s.params.trBytes) v.a1.toNat 32 ∧
      Apart v.a0.toNat (4832 + s.params.trBytes) v.a2.toNat 32 ∧
      Apart v.a0.toNat (4832 + s.params.trBytes) v.a3.toNat s.params.trBytes) ∧
    ∀ more : Bool, ∃ (s : State) (v : Args) (ra rb : Nat) (c : List Byte) (z h : List Machine.Poly), s.latch = some v ∧
      c.length = 32 ∧ BytesHold s v.a1.toNat c ∧ z.length = 7 ∧ SlotsHold s ra z ∧ h.length = 8 ∧ SlotsHold s rb h ∧
      SlotsFit s ra 7 ∧ SlotsFit s rb 8 ∧ BytesFit s v.a0.toNat 4595 ∧ BytesFit s v.a1.toNat 32 ∧
      Apart v.a0.toNat 4595 v.a1.toNat 32 ∧ (if more then 75 < weight8 h else weight8 h ≤ 75) := by
  refine ⟨⟨full ones 0 (argsOf 13792 0 0 0), argsOf 13792 0 0 0, 56, List.replicate 32 0, List.replicate 8 ones, rfl, rfl,
      full_bytes _ _ _ (by decide), rfl, full_slots _ _ _ (by decide), by decide, by decide, by decide, .inr (by decide)⟩,
    ⟨full ones 0 (argsOf 11520 11488 11488 0), argsOf 11520 11488 11488 0, 56, 57, 56, List.replicate 32 0,
      List.replicate 32 0, List.replicate 32 0, List.replicate 7 ones, List.replicate 8 ones, List.replicate 8 ones, rfl,
      rfl, full_bytes _ _ _ (by decide), rfl, full_bytes _ _ _ (by decide), rfl, full_bytes _ _ _ (by decide), rfl,
      full_slots _ _ _ (by decide), rfl, full_slots _ _ _ (by decide), rfl, full_slots _ _ _ (by decide), by decide,
      by decide, by decide, by decide, by decide, by decide, by decide, .inr (by decide), .inr (by decide),
      .inr (by decide)⟩, fun more => ⟨hintBlock more 11789 0, argsOf 11789 0 0 0, 8, 0, List.replicate 32 0,
      List.replicate 7 ones, hints more, rfl, rfl, ?_, rfl, ?_, hints_length _, hintBlock_slots _ _ _, show 8 + 7 ≤ 64 by decide,
      show 0 + 8 ≤ 64 by decide, show 11789 + 4595 ≤ 16384 by decide, show 0 + 32 ≤ 16384 by decide, .inr (by decide), ?_⟩⟩
  · exact full_bytes ones 0 (argsOf 11789 0 0 0) (a := 0) (n := 32) (by decide)
  · refine ⟨cells_wf _ (show (hints more ++ List.replicate 7 ones).length ≤ 64 by simp [hints_length]), fun k _ => ?_⟩
    simp only [hintBlock, Sparse.get_cells, Nat.zero_le, if_true, Nat.sub_zero]
    rw [List.getElem?_append_right (by rw [hints_length]; omega), hints_length, Nat.add_sub_cancel_left]
  · cases more
    · exact hints_weight.1.le
    · rw [if_pos rfl, hints_weight.2]; decide

theorem witness_UnpackKeysAndSignature :
    (∃ (s : State) (v : Args) (rd : Nat) (pk : List Byte), s.latch = some v ∧ pk.length = 2592 ∧
      BytesHold s v.a0.toNat pk ∧ BytesFit s v.a0.toNat 2592 ∧ BytesFit s v.a1.toNat 32 ∧
      Apart v.a0.toNat 2592 v.a1.toNat 32 ∧ SlotsFit s rd 8) ∧
    (∃ (s : State) (v : Args) (rd ra rb : Nat) (sk : List Byte) (tr : Nat), s.latch = some v ∧
      tr = s.params.trBytes ∧ sk.length = 4832 + tr ∧
      BytesHold s v.a0.toNat sk ∧ BytesFit s v.a0.toNat (4832 + tr) ∧ BytesFit s v.a1.toNat 32 ∧ BytesFit s v.a2.toNat 32 ∧
      BytesFit s v.a3.toNat tr ∧ Apart v.a0.toNat (4832 + tr) v.a1.toNat 32 ∧ Apart v.a0.toNat (4832 + tr) v.a2.toNat 32 ∧
      Apart v.a0.toNat (4832 + tr) v.a3.toNat tr ∧ Apart v.a1.toNat 32 v.a2.toNat 32 ∧ Apart v.a1.toNat 32 v.a3.toNat tr ∧
      Apart v.a2.toNat 32 v.a3.toNat tr ∧ SlotsFit s rd 8 ∧ SlotsFit s ra 7 ∧ SlotsFit s rb 8 ∧ Apart rd 8 ra 7 ∧ Apart rd 8 rb 8 ∧
      Apart ra 7 rb 8) ∧
    ∀ b ∈ [(0 : Byte), 0xFF], ∃ (s : State) (v : Args) (ra rb : Nat) (sig : List Byte), s.latch = some v ∧
      sig.length = 4595 ∧ BytesHold s v.a0.toNat sig ∧ BytesFit s v.a0.toNat 4595 ∧ BytesFit s v.a1.toNat 32 ∧
      Apart v.a0.toNat 4595 v.a1.toNat 32 ∧ SlotsFit s ra 7 ∧ SlotsFit s rb 8 ∧ Apart ra 7 rb 8 ∧
      slice sig 4512 83 = List.replicate 83 b := by
  refine ⟨⟨full ones 7 (argsOf 13792 13760 0 0), argsOf 13792 13760 0 0, 56, List.replicate 2592 7, rfl,
      List.length_replicate, full_bytes _ _ _ (by decide), by decide, by decide, .inr (by decide), by decide⟩,
    ⟨full ones 7 (argsOf 11520 11488 0 32), argsOf 11520 11488 0 32, 56, 49, 41, List.replicate 4864 7, 32, rfl, rfl,
      List.length_replicate, full_bytes _ _ _ (by decide), by decide, by decide, by decide, by decide, .inr (by decide),
      .inr (by decide), .inr (by decide), .inr (by decide), .inr (by decide), .inl (by decide), by decide, by decide,
      by decide, .inr (by decide), .inr (by decide), .inr (by decide)⟩,
    fun b _ => ⟨full ones b (argsOf 11789 11757 0 0), argsOf 11789 11757 0 0, 49, 56, List.replicate 4595 b, rfl,
      List.length_replicate, full_bytes _ _ _ (by decide), show 11789 + 4595 ≤ 16384 by decide,
      show 11757 + 32 ≤ 16384 by decide, .inr (by decide), show 49 + 7 ≤ 64 by decide, show 56 + 8 ≤ 64 by decide,
      .inl (by decide), ?_⟩⟩
  rw [slice, List.drop_replicate, List.take_replicate]
  rfl

/-! ### Transfers and zeroing -/

theorem witness_PolynomialTransfers :
    (∃ (s : State) (v : Args) (rd : Nat) (vl : VecLen) (bs : List Byte), s.latch = some v ∧ bs.length = vl.count * 1024 ∧
      BytesHold s v.a0.toNat bs ∧ BytesFit s v.a0.toNat (vl.count * 1024) ∧ SlotsFit s rd vl.count) ∧
    ∃ (s : State) (v : Args) (ra : Nat) (vl : VecLen) (ps : List Machine.Poly), s.latch = some v ∧ ps.length = vl.count ∧
      SlotsHold s ra ps ∧ SlotsFit s ra vl.count ∧ BytesFit s v.a0.toNat (vl.count * 1024) :=
  ⟨⟨full ones 9 (argsOf 8192 0 0 0), argsOf 8192 0 0 0, 56, .vecK, List.replicate 8192 9, rfl, List.length_replicate,
      full_bytes _ _ _ (by decide), by decide, by decide⟩,
    ⟨full ones 9 (argsOf 8192 0 0 0), argsOf 8192 0 0 0, 56, .vecK, List.replicate 8 ones, rfl, rfl,
      full_slots _ _ _ (by decide), by decide, by decide⟩⟩

theorem witness_ZeroingCommands :
    (∃ (s : State) (v : Args), s.latch = some v ∧ PolyMem.wf s.params s.pm ∧ Memory.wf s.params s.bm) ∧
    SlotsFit State.reset 56 VecLen.vecK.count ∧
    BytesFit State.reset (argsOf 16384 0 0 0).a0.toNat (argsOf 16384 0 0 0).a1.toNat ∧
    BytesFit State.reset (argsOf 0 16384 0 0).a0.toNat (argsOf 0 16384 0 0).a1.toNat :=
  ⟨⟨full ones 1 Args.zero, _, rfl, full_pm_wf _ _ _, full_bm_wf _ _ _⟩, by decide, by decide, by decide⟩

end Witness

end Sys2Proof.Tests

end
end

/-! # The machine invariant (O3)

Every step keeps `State.Inv`. The clauses on the memories (`State.MemoryOk`) are all that an idle block has left to prove, so
completion, an error's end, an abort and RST regain the invariant from them; the clause on an open session is proved once, for a
sampler that goes on. -/

namespace Sys2Proof.Machine

variable {s t : State}

/-! ## What the invariant rests on -/

/-- The clauses of the invariant that every update of the block keeps, whatever its sequencer does: the parameters are a block's,
and PM and BM are canonical (R10, R20, R24). -/
structure State.MemoryOk (s : State) : Prop where
  paramsOk : s.params.Ok
  pmWf : PolyMem.wf s.params s.pm
  bmWf : Memory.wf s.params s.bm

theorem State.Inv.memoryOk (h : s.Inv) : s.MemoryOk := ⟨h.paramsOk, h.pmWf, h.bmWf⟩

/-- An idle block with no open session has nothing more to show than its memories and its error code. -/
theorem State.MemoryOk.inv_of_idle (h : s.MemoryOk) (herr : s.err = true ↔ s.errcode ≠ .noError) (hseq : s.seq = .idle)
    (hxof : s.xof = none) : s.Inv where
  paramsOk := h.paramsOk
  pmWf := h.pmWf
  bmWf := h.bmWf
  errCode := herr
  runClear hrun := by simp [hseq] at hrun
  runLatched hrun := by simp [hseq] at hrun
  idleClosed _ := hxof
  seedCopied x hx := by simp [hxof] at hx

/-- The invariant reads neither OVR, IE, the results, the argument registers, the MATVEC buffers, the host, the schedule nor the
count of free values. -/
theorem State.Inv.frame (h : s.Inv) (ovr ie : Bool) (result result1 : Word) (args : Args) (matEntry matAcc : Poly)
    (host : HostState) (turns : List Turn) (freeCount : Nat) :
    State.Inv { s with ovr, ie, result, result1, args, matEntry, matAcc, host, turns, freeCount } :=
  ⟨h.paramsOk, h.pmWf, h.bmWf, h.errCode, h.runClear, h.runLatched, h.idleClosed, h.seedCopied⟩

/-! ## The updates of the memories -/

theorem State.MemoryOk.clearSlots (h : s.MemoryOk) (x n : Nat) : (s.clearSlots x n).MemoryOk :=
  ⟨h.paramsOk, Sparse.wfBelow_clearRange x n h.pmWf, h.bmWf⟩

theorem State.MemoryOk.clearBytes (h : s.MemoryOk) (a n : Nat) : (s.clearBytes a n).MemoryOk :=
  ⟨h.paramsOk, h.pmWf, Sparse.wfBelow_clearRange a n h.bmWf⟩

theorem State.MemoryOk.clearAll (h : s.MemoryOk) (o : Operands) : (s.clearAll o).MemoryOk :=
  have hslots := List.foldlRecOn o.slotDst _ h fun _ hs r _ => State.MemoryOk.clearSlots hs r.start r.len
  List.foldlRecOn o.bmDst _ hslots fun _ hs r _ => State.MemoryOk.clearBytes hs r.start r.len

/-! ## The updates of the sequencer -/

theorem State.MemoryOk.endWithError_inv (h : s.MemoryOk) {e : ErrCode} (he : e ≠ .noError) : (s.endWithError e).Inv :=
  State.MemoryOk.inv_of_idle ⟨h.paramsOk, h.pmWf, h.bmWf⟩ (by simp [he]) rfl rfl

theorem State.MemoryOk.abort_inv (h : s.MemoryOk) : s.abort.Inv := by
  unfold State.abort
  split
  · exact (h.clearAll _).endWithError_inv (by decide)
  · exact h.endWithError_inv (by decide)

theorem State.MemoryOk.warmReset_inv (h : s.MemoryOk) : s.warmReset.Inv :=
  State.MemoryOk.inv_of_idle ⟨h.paramsOk, Sparse.wfBelow_nil _, Sparse.wfBelow_nil _⟩ (by simp [State.reset]) rfl rfl

/-- An issue starts from the idle block, so no session is open behind it (R27, R39). -/
theorem State.Inv.issue (h : s.Inv) (hidle : s.seq = .idle) (w : Word) : (s.issue w).Inv where
  paramsOk := h.paramsOk
  pmWf := h.pmWf
  bmWf := h.bmWf
  errCode := by simp
  runClear _ := ⟨rfl, rfl⟩
  runLatched _ := rfl
  idleClosed _ := h.idleClosed hidle
  seedCopied x hx := by simp [h.idleClosed hidle] at hx

/-- A STATUS write clears ERR and ERRCODE together (R30). -/
theorem State.Inv.writeStatus (h : s.Inv) (v : Word) : (s.writeStatus v).Inv where
  paramsOk := h.paramsOk
  pmWf := h.pmWf
  bmWf := h.bmWf
  errCode := by
    rw [State.writeStatus_err, State.writeStatus_errcode]
    cases v.getLsbD 2 with
    | true => simp
    | false => simpa using h.errCode
  runClear hrun := by simp [h.runClear hrun]
  runLatched := h.runLatched
  idleClosed := h.idleClosed
  seedCopied := h.seedCopied

/-! ## The sequencer's turn -/

/-- The seed a sampler's turn takes, from BM or from the session that is open, is the one BM holds at the command's byte source
(R67). -/
theorem State.Inv.seed_in_bm (h : s.Inv) {i : Instr} (hdec : decode s.cmd = .ok i) {r : Range} {seed : List Byte}
    (hsrc : (operandsOf i s.params s.argv).bmSrc = [r])
    (hseed : (s.xof = none ∧ s.bm.getRange r.start r.len = some seed) ∨ ∃ y, s.xof = some y ∧ y.msg.take r.len = seed) :
    s.bm.getRange r.start r.len = some seed := by
  obtain ⟨-, hbm⟩ | ⟨y, hy, rfl⟩ := hseed
  · exact hbm
  · obtain ⟨j, q, hj, hq, hbm⟩ := h.seedCopied y hy
    obtain rfl : i = j := Except.ok.inj (hdec.symm.trans hj)
    obtain rfl : r = q := List.singleton_inj.mp (hsrc.symm.trans hq)
    exact hbm

/-- A sampler that goes on leaves a session whose message begins with the seed in BM (R67). -/
theorem State.Inv.openSession (h : s.Inv) (hrun : s.seq = .run) {i : Instr} (hdec : decode s.cmd = .ok i) {x : XofSession}
    {r : Range} {seed : List Byte} (hsrc : (operandsOf i s.params s.argv).bmSrc = [r])
    (hbm : s.bm.getRange r.start r.len = some seed) (hx : seed <+: x.msg) : State.Inv { s with xof := some x } where
  paramsOk := h.paramsOk
  pmWf := h.pmWf
  bmWf := h.bmWf
  errCode := h.errCode
  runClear := h.runClear
  runLatched := h.runLatched
  idleClosed hidle := by simp [hrun] at hidle
  seedCopied y hy := by
    obtain rfl : x = y := Option.some.inj hy
    have htake : seed = x.msg.take r.len := by
      rw [← Sparse.getRange_length hbm]
      exact List.prefix_iff_eq_take.mp hx
    exact ⟨i, r, hdec, hsrc, htake ▸ hbm⟩

theorem State.Inv.of_commandOutcome (h : s.Inv) (hrun : s.seq = .run) {i : Instr} (hdec : decode s.cmd = .ok i)
    (ho : CommandOutcome i s t) : t.Inv := by
  cases ho with
  | error e he => exact h.memoryOk.endWithError_inv he
  | running x r seed hsrc hseed hx => exact h.openSession hrun hdec hsrc (h.seed_in_bm hdec hsrc hseed) hx
  | completed pm bm e a r r1 hpm hbm =>
    exact State.MemoryOk.inv_of_idle ⟨h.paramsOk, hpm h.pmWf, hbm h.bmWf⟩ h.errCode rfl rfl

theorem decodeErrCode_ne_noError (e : DecodeError) : decodeErrCode e ≠ .noError := by cases e <;> decide

theorem State.Inv.of_sequencerTurn (h : s.Inv) (hs : sequencerTurn s = .next t) : t.Inv := by
  unfold sequencerTurn at hs
  split at hs
  · cases hs
    exact h
  · rename_i hrun
    split at hs
    · cases hs
      exact h.memoryOk.endWithError_inv (decodeErrCode_ne_noError _)
    · rename_i i hdec
      exact h.of_commandOutcome hrun hdec (exec_outcome hs)

/-! ## The host's turn -/

/-- A BM access through the window lies inside BM (R53, R55). -/
theorem windowTarget_bm_le {p : Config.Params} {w : Width} {off a : Nat} (h : windowTarget p w off = .bm a) :
    a + widthBytes w ≤ p.bmSize := by
  simp only [windowTarget] at h
  split_ifs at h with hcsr _ hgap hbm haccess
  obtain rfl : off - 0x4000 = a := Target.bm.inj h
  omega

theorem State.Inv.hostGoto (h : s.Inv) (n : Nat) : (s.hostGoto n).Inv := h.frame ..

theorem State.Inv.hostNext (h : s.Inv) : s.hostNext.Inv := h.hostGoto _

theorem State.Inv.setHostReg (h : s.Inv) (r : Fin 8) (v : Word) : (s.setHostReg r v).Inv := h.frame ..

theorem State.Inv.resultRead (h : s.Inv) (v : Word) : (resultRead s v).2.Inv := by
  unfold Machine.resultRead
  split
  · exact h.frame ..
  · exact h

/-- A CSR read changes nothing but the count of free values (R33, R57). -/
theorem State.Inv.csrRead (h : s.Inv) (off : Nat) : (csrRead s off).2.Inv := by
  unfold Machine.csrRead
  split
  case h_6 | h_7 => exact h.resultRead _
  all_goals exact h

theorem State.Inv.writeCmd (h : s.Inv) (v : Word) : (s.writeCmd v).Inv := by
  unfold State.writeCmd
  split
  · exact h.frame ..
  · rename_i hbusy
    exact h.issue ((State.busy_eq_false s).mp (Bool.eq_false_of_not_eq_true hbusy)) v

theorem State.Inv.writeCtrl (h : s.Inv) (v : Word) : (s.writeCtrl v).Inv := by
  have hie : State.Inv { s with ie := v.getLsbD 0 } := h.frame ..
  unfold State.writeCtrl
  split
  · exact hie.memoryOk.abort_inv
  · exact hie

theorem State.Inv.csrWrite (h : s.Inv) (off : Nat) (v : Word) : (csrWrite s off v).Inv := by
  unfold Machine.csrWrite
  split
  case h_1 => exact h.writeCmd v
  case h_2 => exact h.writeStatus v
  case h_3 => exact h.writeCtrl v
  case h_8 => exact h
  all_goals exact h.frame ..

/-- A BM write of the host happens while no command runs, so no open session rests on the bytes it changes (R39, R58). -/
theorem State.Inv.writeBytes_of_idle (h : s.Inv) (hidle : s.seq = .idle) {a : Nat} {bs : List Byte}
    (hle : a + bs.length ≤ s.params.bmSize) : (s.writeBytes a bs).Inv :=
  State.MemoryOk.inv_of_idle ⟨h.paramsOk, h.pmWf, Sparse.wfBelow_setRange h.bmWf hle⟩ h.errCode hidle (h.idleClosed hidle)

theorem State.Inv.of_hostLoad (h : s.Inv) {w : Width} {off : Nat} {r : Fin 8} (hs : hostLoad w off r s = .next t) : t.Inv := by
  unfold hostLoad at hs
  split at hs
  case h_1 =>
    cases hs
    exact ((h.csrRead off).setHostReg r _).hostNext
  case h_2 =>
    split at hs
    · cases hs
    · obtain ⟨bs, -, -, hs⟩ := withBytes_eq_next hs
      cases hs
      exact (h.setHostReg r _).hostNext
  all_goals cases hs

theorem State.Inv.of_hostStore (h : s.Inv) {w : Width} {off : Nat} {v : Word} (hs : hostStore w off v s = .next t) : t.Inv := by
  unfold hostStore at hs
  split at hs
  case h_1 =>
    cases hs
    exact (h.csrWrite off v).hostNext
  case h_2 a ha =>
    split at hs
    · cases hs
    · rename_i hbusy
      cases hs
      have hidle : s.seq = .idle := (State.busy_eq_false s).mp (Bool.eq_false_of_not_eq_true hbusy)
      have hle : a + (natToBytes (widthBytes w) v.toNat).length ≤ s.params.bmSize := by
        rw [natToBytes_length]
        exact windowTarget_bm_le ha
      exact (h.writeBytes_of_idle hidle hle).hostNext
  all_goals cases hs

theorem State.Inv.of_hostOp (h : s.Inv) {op : HostOp} (hs : hostOp op s = .next t) : t.Inv := by
  cases op with
  | load w off r => exact h.of_hostLoad hs
  | store w off v => exact h.of_hostStore hs
  | li r v | addi r src v | andi r src v =>
    cases hs
    exact (h.setHostReg r _).hostNext
  | beqz r n | bnez r n =>
    cases hs
    split <;> exact h.hostGoto _
  | jump n =>
    cases hs
    exact h.hostGoto n
  | halt =>
    cases hs
    exact h

theorem State.Inv.of_hostTurn (h : s.Inv) (hs : hostTurn s = .next t) : t.Inv := by
  unfold hostTurn at hs
  split at hs
  · cases hs
    exact h
  · exact h.of_hostOp hs

/-! ## Every step -/

theorem State.Inv.of_takeTurn (h : s.Inv) {a : Turn} (hs : takeTurn a s = .next t) : t.Inv := by
  cases a with
  | host => exact h.of_hostTurn hs
  | sequencer => exact h.of_sequencerTurn hs
  | reset =>
    cases hs
    exact h.memoryOk.warmReset_inv

theorem State.Inv.popTurn (h : s.Inv) : s.popTurn.Inv := h.frame ..

/-- Settles O3: each agent's turn keeps the invariant, and taking the turn off the schedule touches no clause of it. -/
theorem stepKeepsInvariant : Obligations.StepKeepsInvariant :=
  fun _ _ h hs => h.popTurn.of_takeTurn hs

end Sys2Proof.Machine

/-! # The state, the registers, the host and a command's turn (O1, O2, O5 to O9, O13, O21, O26, O27)

For each agent one lemma says what its turn can leave: `hostTurn_eq_next` for the host, and for a command `exec_outcome` with
`exec_turnLaw`, which adds what the outcome leaves open. The obligations are read off these. -/

namespace Sys2Proof

/-! ## Decoding an encoded word (R70, R75, R79) -/

/-- A word packed from fields that fit decodes to the command its row makes of them, where the fields the row does not use are 0. -/
theorem decode_packWord {op rd ra rb : Nat} {vl : VecLen} {sl : SeedLen} {sh : Shape} {mk : Fields → Instr} {i : Instr}
    (hfit : FieldsFit op rd ra rb (vlCode vl) (seedCode sl)) (hrow : opRow op = some (sh, mk))
    (hunused : (unusedZero sh.rd rd && unusedZero sh.ra ra && unusedZero sh.rb rb && unusedZero sh.vl (vlCode vl)
      && unusedZero sh.sl (seedCode sl)) = true) (hi : mk ⟨rd, ra, rb, vl, sl⟩ = i) :
    decode (packWord op rd ra rb (vlCode vl) (seedCode sl)) = .ok i := by
  subst hi
  have hok : fieldsOk sh (packWord op rd ra rb (vlCode vl) (seedCode sl)) = true := by
    rw [fieldsOk, rsvField_packWord hfit, rdField_packWord hfit, raField_packWord hfit, rbField_packWord hfit,
      vlField_packWord hfit, sField_packWord hfit]
    exact hunused
  have hread : readFields (packWord op rd ra rb (vlCode vl) (seedCode sl)) = some ⟨rd, ra, rb, vl, sl⟩ := by
    rw [readFields, rdField_packWord hfit, raField_packWord hfit, rbField_packWord hfit, vlField_packWord hfit,
      sField_packWord hfit, vlOfCode_vlCode, seedOfCode_seedCode]
  rw [decode, opField_packWord hfit, hrow]
  simp only [hok, hread, if_true]

open Laws.OpField in
/-- The word of a well-formed command decodes to it: one case for each set of fields a row of R80 uses. -/
theorem decode_encode {i : Instr} (h : i.wf = true) : decode (encode i) = .ok i := by
  cases i with
  | nop | smont | sred | scaddq | sp2r | sdecomp | smkhint | susehint | bzero | wipe => rfl
  | padd rd ra rb vl | psub rd ra rb vl | ppwm rd ra rb vl | ppwms rd ra rb vl | ppwacc rd ra rb vl | pp2r rd ra rb vl
  | pdecomp rd ra rb vl | pmkhint rd ra rb vl | pusehint rd ra rb vl =>
    exact decode_packWord (sl := .s32) ⟨by decide, fits_left (fits_fst h), fits_right (fits_fst h), fits_right h, vlCode_lt vl,
      by decide⟩ rfl rfl rfl
  | packsk rd ra rb | unpacksk rd ra rb =>
    exact decode_packWord (vl := .one) (sl := .s32) ⟨by decide, fits_left (fits_fst h), fits_right (fits_fst h), fits_right h,
      by decide, by decide⟩ rfl rfl rfl
  | pshl rd ra vl | pred rd ra vl | pcaddq rd ra vl | pntt rd ra vl | pinvntt rd ra vl =>
    exact decode_packWord (sl := .s32) ⟨by decide, fits_left h, fits_right h, by decide, vlCode_lt vl, by decide⟩ rfl rfl rfl
  | matvec rd ra sl =>
    exact decode_packWord (vl := .one) ⟨by decide, fits_left h, fits_right h, by decide, by decide, seedCode_lt sl⟩ rfl rfl rfl
  | packsig ra rb | unpacksig ra rb =>
    exact decode_packWord (vl := .one) (sl := .s32) ⟨by decide, by decide, fits_left h, fits_right h, by decide, by decide⟩
      rfl rfl rfl
  | pchknorm ra vl | pkt1 ra vl | pkt0 ra vl | pketa ra vl | pkz ra vl | pkw1 ra vl | stpoly ra vl =>
    exact decode_packWord (sl := .s32) ⟨by decide, by decide, slot_lt h, by decide, vlCode_lt vl, by decide⟩ rfl rfl rfl
  | pkhint ra | packpk ra =>
    exact decode_packWord (vl := .one) (sl := .s32) ⟨by decide, by decide, slot_lt h, by decide, by decide, by decide⟩ rfl rfl rfl
  | upkt1 rd vl | upkt0 rd vl | upketa rd vl | upkz rd vl | ldpoly rd vl | pzero rd vl =>
    exact decode_packWord (sl := .s32) ⟨by decide, slot_lt h, by decide, by decide, vlCode_lt vl, by decide⟩ rfl rfl rfl
  | upkhint rd | unpackpk rd =>
    exact decode_packWord (vl := .one) (sl := .s32) ⟨by decide, slot_lt h, by decide, by decide, by decide, by decide⟩ rfl rfl rfl
  | sunif rd vl sl | seta rd vl sl | sgamma1 rd vl sl =>
    exact decode_packWord ⟨by decide, slot_lt h, by decide, by decide, vlCode_lt vl, seedCode_lt sl⟩ rfl rfl rfl
  | schal rd sl =>
    exact decode_packWord (vl := .one) ⟨by decide, slot_lt h, by decide, by decide, by decide, seedCode_lt sl⟩ rfl rfl rfl

end Sys2Proof

namespace Sys2Proof.Machine

variable {s t : State}

/-! ## Registers -/

/-- The argument latch of an issued command is what every command reads (R27). -/
theorem State.argv_of_latch {v : Args} (h : s.latch = some v) : s.argv = v := by simp [State.argv, h]

theorem State.busy_eq_decide (s : State) : s.busy = decide (s.seq = .run) := by
  rw [Bool.eq_iff_iff, State.busy_eq_true, decide_eq_true_iff]

/-- CTRL reads as IE in bit 0 (R26, R32). -/
theorem State.ctrlWord_eq (s : State) : s.ctrlWord = if s.ie then 1 else 0 := by
  unfold State.ctrlWord
  cases s.ie <;> rfl

theorem errNumber_le (e : ErrCode) : errNumber e ≤ 7 := by cases e <;> decide

/-- STATUS is its four flags, bit by bit, under four bits that read 0 and ERRCODE (R26). -/
theorem State.statusWord_toNat (s : State) :
    s.statusWord.toNat = Nat.bit s.busy (Nat.bit s.done (Nat.bit s.err (Nat.bit s.ovr (16 * errNumber s.errcode)))) := by
  have hcode := errNumber_le s.errcode
  have hbusy := s.busy.toNat_le
  have hdone := s.done.toNat_le
  have herr := s.err.toNat_le
  have hovr := s.ovr.toNat_le
  simp only [Nat.bit_val, State.statusWord, BitVec.toNat_ofNat]
  omega

theorem State.statusWord_flags (s : State) :
    s.statusWord.getLsbD 0 = decide (s.seq = .run) ∧ s.statusWord.getLsbD 1 = s.done ∧ s.statusWord.getLsbD 2 = s.err ∧
      s.statusWord.getLsbD 3 = s.ovr := by
  simp only [← BitVec.testBit_toNat, s.statusWord_toNat, Nat.testBit_bit_zero, Nat.testBit_bit_succ, s.busy_eq_decide, and_self]

/-- Above the four flags of STATUS four bits read 0, and ERRCODE is what follows them (R26). -/
theorem State.statusWord_code (s : State) :
    s.statusWord.toNat / 16 % 16 = 0 ∧ s.statusWord.toNat / 256 = errNumber s.errcode := by
  have hhigh : s.statusWord.toNat / 16 = 16 * errNumber s.errcode := by
    rw [s.statusWord_toNat]
    simp only [show 16 = 2 * 2 * 2 * 2 from rfl, ← Nat.div_div_eq_div_mul, Nat.bit_div_two]
  omega

/-- PARAM's fields do not run into each other for a block's parameters (R10, R34). -/
theorem paramWord_toNat {p : Config.Params} (h : p.Ok) :
    (paramWord p).toNat = p.nslot + p.trBytes * 256 + p.bmSize / 256 * 65536 := by
  obtain ⟨-, hslot, -, hbm, htr⟩ := h
  rw [paramWord, BitVec.toNat_ofNat]
  omega

theorem paramWord_fields {p : Config.Params} (h : p.Ok) : (paramWord p).toNat % 256 = p.nslot ∧
    (paramWord p).toNat / 256 % 256 = p.trBytes ∧ (paramWord p).toNat / 65536 * 256 = p.bmSize := by
  rw [paramWord_toNat h]
  obtain ⟨-, hslot, hmul, -, htr⟩ := h
  omega

theorem resultRead_of_idle (h : s.seq = .idle) (v : Word) : resultRead s v = (v, s) := by
  simp [resultRead, (State.busy_eq_false s).mpr h]

theorem State.writeCmd_of_idle (h : s.seq = .idle) (w : Word) : s.writeCmd w = s.issue w := by
  simp [State.writeCmd, (State.busy_eq_false s).mpr h]

theorem State.writeCmd_of_run (h : s.seq = .run) (w : Word) : s.writeCmd w = { s with ovr := true } := by
  simp [State.writeCmd, (State.busy_eq_true s).mpr h]

/-- A CTRL write that does not abort sets IE alone (R32). -/
theorem State.writeCtrl_of_not_abort {v : Word} (h : s.seq = .idle ∨ v.getLsbD 1 = false) :
    s.writeCtrl v = { s with ie := v.getLsbD 0 } := by
  have : (v.getLsbD 1 && s.busy) = false := by
    obtain h | h := h
    · rw [(State.busy_eq_false s).mpr h, Bool.and_false]
    · rw [h, Bool.false_and]
  rw [State.writeCtrl, this]
  rfl

/-! ## Abort -/

/-- m' differs from m only in keys that have become unwritten. -/
def Sparse.OnlyClears {α : Type} (m m' : Sparse α) : Prop := ∀ b, m'.get b = m.get b ∨ m'.get b = none

theorem Sparse.OnlyClears.refl {α : Type} (m : Sparse α) : m.OnlyClears m := fun _ => .inl rfl

theorem Sparse.OnlyClears.of_clearRange {α : Type} {m m' : Sparse α} {a n : Nat} (h : (m.clearRange a n).OnlyClears m') :
    m.OnlyClears m' := by
  intro b
  have hb := h b
  rw [Sparse.get_clearRange] at hb
  split at hb
  · exact .inr (hb.elim id id)
  · exact hb

theorem foldl_clearSlots_eq (rs : List Range) (s : State) : ∃ pm : PolyMem,
    rs.foldl (fun s r => s.clearSlots r.start r.len) s = { s with pm := pm } ∧ Sparse.OnlyClears s.pm pm := by
  induction rs generalizing s with
  | nil => exact ⟨s.pm, rfl, .refl _⟩
  | cons r rs ih =>
    obtain ⟨pm, heq, hclears⟩ := ih (s.clearSlots r.start r.len)
    exact ⟨pm, heq, hclears.of_clearRange⟩

theorem foldl_clearBytes_eq (rs : List Range) (s : State) :
    ∃ bm : Memory, rs.foldl (fun s r => s.clearBytes r.start r.len) s = { s with bm := bm } := by
  induction rs generalizing s with
  | nil => exact ⟨s.bm, rfl⟩
  | cons r rs ih =>
    obtain ⟨bm, heq⟩ := ih (s.clearBytes r.start r.len)
    exact ⟨bm, heq⟩

/-- Unwriting a command's destinations changes PM and BM alone, and gives no slot a value (R44, R312). -/
theorem State.clearAll_eq (s : State) (o : Operands) : ∃ (pm : PolyMem) (bm : Memory),
    s.clearAll o = { s with pm := pm, bm := bm } ∧ Sparse.OnlyClears s.pm pm := by
  obtain ⟨pm, hslots, hclears⟩ := foldl_clearSlots_eq o.slotDst s
  obtain ⟨bm, hbytes⟩ := foldl_clearBytes_eq o.bmDst { s with pm := pm }
  exact ⟨pm, bm, by rw [State.clearAll, hslots, hbytes], hclears⟩

/-- An abort ends the command with ABORTED and gives no slot a value (R312). -/
theorem State.abort_eq (s : State) : ∃ (pm : PolyMem) (bm : Memory),
    s.abort = ({ s with pm := pm, bm := bm } : State).endWithError .aborted ∧ Sparse.OnlyClears s.pm pm := by
  unfold State.abort
  split
  · rename_i i _
    obtain ⟨pm, bm, heq, hclears⟩ := s.clearAll_eq (wouldWrite i s)
    exact ⟨pm, bm, by rw [heq], hclears⟩
  · exact ⟨s.pm, s.bm, rfl, .refl _⟩

/-- IE takes bit 0 of a CTRL write, the aborting write included (R32; notes/assumptions/24.md). -/
@[simp] theorem State.writeCtrl_ie (s : State) (v : Word) : (s.writeCtrl v).ie = v.getLsbD 0 := by
  unfold State.writeCtrl
  split
  · obtain ⟨pm, bm, heq, -⟩ := State.abort_eq { s with ie := v.getLsbD 0 }
    rw [heq]
    rfl
  · rfl

theorem State.writeCtrl_onlyClears (s : State) (v : Word) : Sparse.OnlyClears s.pm (s.writeCtrl v).pm := by
  unfold State.writeCtrl
  split
  · obtain ⟨pm, bm, heq, hclears⟩ := State.abort_eq { s with ie := v.getLsbD 0 }
    rw [heq]
    exact hclears
  · exact .refl _

/-! ## The host's turn -/

/-- A CSR write gives no slot a value (R23). -/
theorem csrWrite_onlyClears (s : State) (off : Nat) (v : Word) : Sparse.OnlyClears s.pm (csrWrite s off v).pm := by
  unfold csrWrite
  split
  case h_1 =>
    unfold State.writeCmd
    split <;> exact .refl _
  case h_3 => exact s.writeCtrl_onlyClears v
  all_goals exact .refl _

/-- While the block is idle a CSR write issues a command, at CMD, or leaves PM as it was and the block idle (R27, R318). -/
theorem csrWrite_of_idle (h : s.seq = .idle) (off : Nat) (v : Word) :
    (off = 0x08 ∧ csrWrite s off v = s.issue v) ∨ ((csrWrite s off v).pm = s.pm ∧ (csrWrite s off v).seq = .idle) := by
  unfold csrWrite
  split
  case h_1 => exact .inl ⟨rfl, State.writeCmd_of_idle h v⟩
  case h_3 =>
    rw [State.writeCtrl_of_not_abort (.inl h)]
    exact .inr ⟨rfl, h⟩
  all_goals exact .inr ⟨rfl, h⟩

/-- A CSR read changes nothing but the count of free values (R33, R57). -/
theorem csrRead_state (s : State) (off : Nat) : ∃ n, (csrRead s off).2 = { s with freeCount := n } := by
  have hresult (v : Word) : ∃ n, (resultRead s v).2 = { s with freeCount := n } := by
    unfold resultRead
    split <;> exact ⟨_, rfl⟩
  unfold csrRead
  split
  case h_6 | h_7 => exact hresult _
  all_goals exact ⟨s.freeCount, rfl⟩

/-- A register access through the window is a 32-bit one (R53, R54). -/
theorem windowTarget_csr {p : Config.Params} {w : Width} {off : Nat} (h : windowTarget p w off = .csr) : w = .w32 := by
  simp only [windowTarget] at h
  split_ifs at h with _ hcsr
  exact hcsr.1

/-- What a host load leaves: the block as it was, but for the count of free values. -/
theorem hostLoad_eq_next {w : Width} {off : Nat} {r : Fin 8} (h : hostLoad w off r s = .next t) :
    ∃ host n, t = { s with host := host, freeCount := n } := by
  unfold hostLoad at h
  split at h
  case h_1 =>
    obtain ⟨n, hn⟩ := csrRead_state s off
    cases h
    rw [hn]
    exact ⟨_, _, rfl⟩
  case h_2 =>
    split at h
    · cases h
    · obtain ⟨bs, -, -, h⟩ := withBytes_eq_next h
      cases h
      exact ⟨_, _, rfl⟩
  all_goals cases h

/-- What a host store leaves: a CSR write by a 32-bit access, or a write of BM while the block is idle (R54, R58). -/
theorem hostStore_eq_next {w : Width} {off : Nat} {v : Word} (h : hostStore w off v s = .next t) :
    (w = .w32 ∧ t = (csrWrite s off v).hostNext) ∨ (s.seq = .idle ∧ ∃ a bs, t = (s.writeBytes a bs).hostNext) := by
  unfold hostStore at h
  split at h
  case h_1 hcsr =>
    cases h
    exact .inl ⟨windowTarget_csr hcsr, rfl⟩
  case h_2 =>
    split at h
    · cases h
    · rename_i hbusy
      cases h
      exact .inr ⟨(State.busy_eq_false s).mp (Bool.eq_false_of_not_eq_true hbusy), _, _, rfl⟩
  all_goals cases h

/-- Everything a turn of the host can do: it stores, or the block stays as it was but for the count of free values. -/
theorem hostTurn_eq_next (h : hostTurn s = .next t) :
    (∃ host n, t = { s with host := host, freeCount := n }) ∨
    ∃ w off v, s.host.prog[s.host.pc]? = some (.store w off v) ∧ hostStore w off (hostVal s v) s = .next t := by
  unfold hostTurn at h
  split at h
  · cases h
    exact .inl ⟨_, _, rfl⟩
  · rename_i op hop
    cases op with
    | load w off r => exact .inl (hostLoad_eq_next h)
    | store w off v => exact .inr ⟨w, off, v, hop, h⟩
    | li r v | addi r src v | andi r src v | jump n | halt =>
      cases h
      exact .inl ⟨_, _, rfl⟩
    | beqz r n | bnez r n =>
      cases h
      split <;> exact .inl ⟨_, _, rfl⟩

/-- A turn of the host gives no slot of PM a value (R23). -/
theorem hostTurn_onlyClears (h : hostTurn s = .next t) : Sparse.OnlyClears s.pm t.pm := by
  obtain ⟨host, n, rfl⟩ | ⟨w, off, v, -, hstore⟩ := hostTurn_eq_next h
  · exact .refl _
  · obtain ⟨-, rfl⟩ | ⟨-, a, bs, rfl⟩ := hostStore_eq_next hstore
    · exact csrWrite_onlyClears s off _
    · exact .refl _

/-- A turn of the host on an idle block leaves PM, and the block idle unless it stores to CMD (R27, R318). -/
theorem hostTurn_of_idle (hidle : s.seq = .idle) (h : hostTurn s = .next t) : t.pm = s.pm ∧
    (t.seq = .idle ∨ ∃ v, s.host.prog[s.host.pc]? = some (.store .w32 0x08 v) ∧ t.cmd = hostVal s v) := by
  obtain ⟨host, n, rfl⟩ | ⟨w, off, v, hop, hstore⟩ := hostTurn_eq_next h
  · exact ⟨rfl, .inl hidle⟩
  · obtain ⟨rfl, rfl⟩ | ⟨-, a, bs, rfl⟩ := hostStore_eq_next hstore
    · obtain ⟨rfl, hissue⟩ | ⟨hpm, hseq⟩ := csrWrite_of_idle hidle off (hostVal s v)
      · rw [hissue]
        exact ⟨rfl, .inr ⟨v, hop, rfl⟩⟩
      · exact ⟨hpm, .inl hseq⟩
    · exact ⟨rfl, .inl hidle⟩

theorem sequencerTurn_of_idle (h : s.seq = .idle) : sequencerTurn s = .next s := by simp [sequencerTurn, h]

theorem sequencerTurn_of_run {i : Instr} (h : s.seq = .run) (hdec : decode s.cmd = .ok i) : sequencerTurn s = exec i s := by
  simp [sequencerTurn, h, hdec]

/-- Settles O13: what `hostTurn_onlyClears` and `hostTurn_of_idle` say of the host, and the idle sequencer. -/
theorem onlyCommandWriteStartsWork : Obligations.OnlyCommandWriteStartsWork := by
  refine ⟨fun s t h => ⟨hostTurn_onlyClears h, fun hidle => ?_⟩, fun s => sequencerTurn_of_idle⟩
  obtain ⟨hpm, hcmd⟩ := hostTurn_of_idle hidle h
  refine ⟨fun x => by rw [hpm], fun hrun => hcmd.resolve_left ?_⟩
  simp [hrun]

/-! ## The registers -/

/-- Settles O1: the reset state, field by field. -/
theorem resetState : Obligations.ResetState :=
  ⟨rfl, rfl, rfl, by decide, rfl, rfl, rfl, rfl, rfl, Sparse.get_nil, Sparse.get_nil⟩

/-- Settles O2: the reset block is idle, with no session and empty memories. -/
theorem resetMeetsInvariant : Obligations.ResetMeetsInvariant :=
  State.MemoryOk.inv_of_idle ⟨by decide, Sparse.wfBelow_nil _, Sparse.wfBelow_nil _⟩ (by decide) rfl rfl

/-- Settles O6: the two branches of a CMD write. -/
theorem commandWrite : Obligations.CommandWrite :=
  fun _ w => ⟨fun hidle => State.writeCmd_of_idle hidle w, fun hrun => State.writeCmd_of_run hrun w⟩

/-- Settles O7: each flag is kept where the write has 0, and cleared where it has 1. -/
theorem statusWrite : Obligations.StatusWrite := by
  intro s v
  have hclear (b c : Bool) : (b && !c) = if c then false else b := by cases c <;> simp
  simp only [csrWrite, State.writeStatus, hclear]

/-- Settles O8: CTRL reads back what `writeCtrl_ie` says IE holds, and the other writes are the map's. -/
theorem otherRegisterWrites : Obligations.OtherRegisterWrites := by
  refine fun s v => ⟨rfl, rfl, rfl, rfl, State.writeCtrl_of_not_abort, ?_, ?_⟩
  · change (s.writeCtrl v).ctrlWord = _
    rw [State.ctrlWord_eq, State.writeCtrl_ie]
  · intro off hoff
    fin_cases hoff <;> rfl

/-- Settles O9: each of the three writes clears DONE or IE. -/
theorem interruptOutput : Obligations.InterruptOutput := by
  refine fun s v => ⟨rfl, rfl, fun hv => ?_, fun hidle => ?_, fun hv => ?_, fun _ hidle => ?_⟩
  · change (s.writeStatus v).irq = false
    rw [State.irq, State.writeStatus_done, hv, Bool.not_true, Bool.and_false, Bool.false_and]
  · change (s.writeCmd v).irq = false
    simp [State.irq, State.writeCmd_of_idle hidle]
  · change (s.writeCtrl v).irq = false
    rw [State.irq, State.writeCtrl_ie, hv, Bool.and_false]
  · change (s.writeCtrl v).done = s.done
    rw [State.writeCtrl_of_not_abort (.inl hidle)]

/-- Settles O5: the bits of STATUS and the fields of PARAM come from the two words' values as numbers. -/
theorem registerReads : Obligations.RegisterReads := by
  intro s
  obtain ⟨hbusy, hdone, herr, hovr⟩ := s.statusWord_flags
  obtain ⟨hgap, hcode⟩ := s.statusWord_code
  refine ⟨rfl, rfl, fun h => ?_, paramWord_fields, rfl, Prod.ext s.ctrlWord_eq rfl,
    fun hidle => ⟨resultRead_of_idle hidle _, resultRead_of_idle hidle _⟩, rfl, rfl, rfl, rfl, ?_, rfl, hbusy, hdone, herr,
    hovr, hgap, hcode.trans ?_⟩
  · change paramWord s.params = _
    rw [h]
    rfl
  · intro off hoff
    fin_cases hoff <;> rfl
  · rfl

/-! ## The step -/

/-- Placing a 32-bit word for the sequencer latches that word (notes/assumptions/4.md). -/
theorem State.withFetchWord_toNat (s : State) (w : Word) : s.withFetchWord 32 w.toNat = s.latchAndRun w := by
  rw [State.withFetchWord, Nat.mod_eq_of_lt w.isLt, BitVec.ofNat_toNat, BitVec.setWidth_eq]

theorem nextTurn_cons {a : Turn} {ts : List Turn} (h : s.turns = a :: ts) : nextTurn s = a := by simp [nextTurn, h]

theorem nextTurn_of_run (h : s.turns = []) (hrun : s.seq = .run) : nextTurn s = .sequencer := by simp [nextTurn, h, hrun]

theorem nextTurn_of_idle (h : s.turns = []) (hidle : s.seq = .idle) : nextTurn s = .host := by simp [nextTurn, h, hidle]

/-- Settles O21: which agent is next, and, for a placed word, that its encoding decodes to the command. -/
theorem stepRunsDecoded : Obligations.StepRunsDecoded := by
  refine ⟨fun s i hrun hdec hturn => ?_, fun s hturn => ?_, fun s i hwf => ?_⟩
  · have hnext : nextTurn s = .sequencer := by
      obtain ⟨ts, hcons⟩ | hnil := hturn
      · exact nextTurn_cons hcons
      · exact nextTurn_of_run hnil hrun
    rw [step, hnext]
    exact sequencerTurn_of_run (s := s.popTurn) hrun hdec
  · have hnext : nextTurn s = .host := by
      obtain ⟨ts, hcons⟩ | ⟨hnil, hidle⟩ := hturn
      · exact nextTurn_cons hcons
      · exact nextTurn_of_idle hnil hidle
    rw [step, hnext]
    rfl
  · rw [State.withFetchWord_toNat]
    exact sequencerTurn_of_run (s := s.issue (encode i)) rfl (decode_encode hwf)

end Sys2Proof.Machine

namespace Sys2Proof.Machine

/-! ## The operand table and the checks in the statements' words (R301 to R304) -/

/-- A range as the statements write it: base and count. -/
def Range.pair (r : Range) : Nat × Nat := (r.start, r.len)

theorem intersects_iff (x y : Range) : intersects x y = true ↔ Spec.Meets x.pair y.pair := by
  simp [intersects, Spec.Meets, Range.pair]

theorem pairwiseDisjoint_iff (l : List Range) :
    pairwiseDisjoint l = true ↔ (l.map Range.pair).Pairwise fun x y => ¬ Spec.Meets x y := by
  induction l with
  | nil => simp [pairwiseDisjoint]
  | cons r rs ih => simp [pairwiseDisjoint, ih, ← intersects_iff]

/-- A secret key has 4832 bytes beside tr (R260, R261). -/
theorem skBytes_eq (p : Config.Params) : skBytes p = 4832 + p.trBytes := by
  simp only [skBytes, skT0, skS2, skS1, packedBytes, Config.seedBytes, Config.vecK, Config.vecL]
  omega

theorem slotsOut_eq (i : Instr) (p : Config.Params) (v : Args) :
    Spec.slotsOut p i = (operandsOf i p v).slotDst.map Range.pair := by cases i <;> rfl

theorem slotsIn_eq (i : Instr) (p : Config.Params) (v : Args) :
    Spec.slotsIn i = (operandsOf i p v).slotSrc.map Range.pair := by cases i <;> rfl

theorem bytesOut_eq (i : Instr) (p : Config.Params) (v : Args) :
    Spec.bytesOut p v i = (operandsOf i p v).bmDst.map Range.pair := by
  cases i
  case packsk => simp [Spec.bytesOut, operandsOf, Range.pair, skBytes_eq]
  all_goals rfl

theorem bytesIn_eq (i : Instr) (p : Config.Params) (v : Args) :
    Spec.bytesIn p v i = (operandsOf i p v).bmSrc.map Range.pair := by
  cases i
  case unpacksk => simp [Spec.bytesIn, operandsOf, Range.pair, skBytes_eq]
  all_goals rfl

/-- The model's overlap test is (a), (b) or (c) of R304. -/
theorem overlapping_iff (i : Instr) (p : Config.Params) (v : Args) :
    overlapping (operandsOf i p v) = true ↔ Spec.Overlaps p v i := by
  have hpair (d x : Range) : d.pair = x.pair ↔ d = x := by
    cases d; cases x; simp [Range.pair]
  simp [overlapping, Spec.Overlaps, slotsOut_eq i p v, slotsIn_eq i p v, bytesOut_eq, bytesIn_eq, ← pairwiseDisjoint_iff,
    ← intersects_iff, hpair, or_assoc]

/-- The model's checks all pass exactly where the statements say so. -/
theorem validate_iff_passes (i : Instr) (p : Config.Params) (v : Args) :
    validate p (operandsOf i p v) = none ↔ Spec.Passes p v i := by
  rw [validate_eq_none_iff, Spec.Passes, Spec.SlotsInRange, Spec.BytesInRange, ← overlapping_iff, slotsOut_eq i p v,
    slotsIn_eq i p v, bytesOut_eq, bytesIn_eq, ← List.map_append, ← List.map_append, List.forall_mem_map, List.forall_mem_map,
    Bool.not_eq_true]
  rfl

/-! ## What a command's turn reads, and which hidden registers it may change -/

variable {i : Instr} {s t : State}

open Spec (isSampler)

/-- The command's sources hold values: every source slot, and every source byte unless it is a sampler that goes on, whose seed
is its session's copy (R44, R67). -/
structure SourcesWritten (i : Instr) (s : State) : Prop where
  slots : ∀ r ∈ (operandsOf i s.params s.argv).slotSrc, s.pm.getRange r.start r.len ≠ none
  bytes : s.xof = none ∨ isSampler i = false → ∀ r ∈ (operandsOf i s.params s.argv).bmSrc, s.bm.getRange r.start r.len ≠ none

theorem SourcesWritten.of_none (hslots : (operandsOf i s.params s.argv).slotSrc = [])
    (hbytes : (operandsOf i s.params s.argv).bmSrc = []) : SourcesWritten i s :=
  ⟨by simp [hslots], by simp [hbytes]⟩

theorem SourcesWritten.of_slots {x n : Nat} {ps : List Poly} (hslots : (operandsOf i s.params s.argv).slotSrc = [⟨x, n⟩])
    (hbytes : (operandsOf i s.params s.argv).bmSrc = []) (h : s.pm.getRange x n = some ps) : SourcesWritten i s :=
  ⟨by simp [hslots, h], by simp [hbytes]⟩

theorem SourcesWritten.of_two_slots {x n y m : Nat} {ps qs : List Poly}
    (hslots : (operandsOf i s.params s.argv).slotSrc = [⟨x, n⟩, ⟨y, m⟩])
    (hbytes : (operandsOf i s.params s.argv).bmSrc = []) (hx : s.pm.getRange x n = some ps)
    (hy : s.pm.getRange y m = some qs) : SourcesWritten i s :=
  ⟨by simp [hslots, hx, hy], by simp [hbytes]⟩

theorem SourcesWritten.of_bytes {a n : Nat} {bs : List Byte} (hslots : (operandsOf i s.params s.argv).slotSrc = [])
    (hbytes : (operandsOf i s.params s.argv).bmSrc = [⟨a, n⟩]) (h : s.bm.getRange a n = some bs) : SourcesWritten i s :=
  ⟨by simp [hslots], by simp [hbytes, h]⟩

/-- PCHKNORM with a bound above (Q-1)/8, whose verdict needs no coefficient (R174, R175; notes/assumptions/18.md). -/
def BoundDecides (i : Instr) (s : State) : Prop := (∃ ra vl, i = .pchknorm ra vl) ∧ boundTooLarge s.argv.a0.toInt = true

/-- MATVEC and WIPE, the commands that write the hidden MATVEC buffers (R40, R284). -/
def writesMatBuffers : Instr → Bool
  | .matvec _ _ _ | .wipe => true
  | _ => false

theorem writesMatBuffers_eq_false (hmat : ∀ rd ra sl, i ≠ .matvec rd ra sl) (hwipe : i ≠ .wipe) : writesMatBuffers i = false := by
  cases i with
  | matvec rd ra sl => exact absurd rfl (hmat rd ra sl)
  | wipe => exact absurd rfl hwipe
  | _ => rfl

/-- What `exec_outcome` leaves open about a turn of command i from s to t: only a sampler opens a session, with this turn's draw
behind it (R218), only MATVEC and WIPE change the MATVEC buffers (R40), and a command that completes has read written sources
(R44). -/
structure TurnLaw (i : Instr) (s t : State) : Prop where
  session : ∀ x, t.xof = some x → isSampler i = true ∧ x.pos = streamBudget s
  buffers : writesMatBuffers i = false → t.matEntry = s.matEntry ∧ t.matAcc = s.matAcc
  sources : t.xof = none → t.err = false → BoundDecides i s ∨ SourcesWritten i s

theorem TurnLaw.error (e : ErrCode) : TurnLaw i s (s.endWithError e) where
  session _ hx := by cases hx
  buffers _ := ⟨rfl, rfl⟩
  sources _ herr := by cases herr

theorem TurnLaw.running {x : XofSession} (hi : isSampler i = true) (hx : x.pos = streamBudget s) :
    TurnLaw i s { s with xof := some x } where
  session y hy := by
    cases hy
    exact ⟨hi, hx⟩
  buffers _ := ⟨rfl, rfl⟩
  sources hnone := by cases hnone

theorem TurnLaw.completed {u : State} {r r1 : Word} (hsrc : SourcesWritten i s)
    (hbuf : writesMatBuffers i = false → u.matEntry = s.matEntry ∧ u.matAcc = s.matAcc := by exact fun _ => ⟨rfl, rfl⟩) :
    TurnLaw i s (u.complete r r1) where
  session _ hx := by cases hx
  buffers := hbuf
  sources _ _ := .inr hsrc

/-- A checked command's law, from its effect's. -/
theorem checked_turnLaw {eff : Result} (h : checked i s eff = .next t) (he : eff = .next t → TurnLaw i s t) : TurnLaw i s t := by
  obtain ⟨e, -, rfl⟩ | ⟨-, heff⟩ := checked_eq_next h
  · exact .error e
  · exact he heff

theorem lift1_turnLaw {rd ra n : Nat} {f : Poly → Poly} (h : lift1 i rd ra n f s = .next t)
    (hslots : (operandsOf i s.params s.argv).slotSrc = [⟨ra, n⟩]) (hbytes : (operandsOf i s.params s.argv).bmSrc = []) :
    TurnLaw i s t := by
  obtain ⟨e, -, rfl⟩ | ⟨-, as, has, -, rfl⟩ := lift1_eq_next h
  · exact .error e
  · exact .completed (.of_slots hslots hbytes has)

theorem lift2_turnLaw {rd ra rb n : Nat} {f : Poly → Poly → Poly} (h : lift2 i rd ra rb n f s = .next t)
    (hslots : (operandsOf i s.params s.argv).slotSrc = [⟨ra, n⟩, ⟨rb, n⟩])
    (hbytes : (operandsOf i s.params s.argv).bmSrc = []) : TurnLaw i s t := by
  obtain ⟨e, -, rfl⟩ | ⟨-, as, bs, has, -, hbs, -, rfl⟩ := lift2_eq_next h
  · exact .error e
  · exact .completed (.of_two_slots hslots hbytes has hbs)

theorem lift1Pair_turnLaw {rd rb ra n : Nat} {f g : Poly → Poly} (h : lift1Pair i rd rb ra n f g s = .next t)
    (hslots : (operandsOf i s.params s.argv).slotSrc = [⟨ra, n⟩]) (hbytes : (operandsOf i s.params s.argv).bmSrc = []) :
    TurnLaw i s t := by
  obtain ⟨e, -, rfl⟩ | ⟨-, as, has, -, rfl⟩ := lift1Pair_eq_next h
  · exact .error e
  · exact .completed (.of_slots hslots hbytes has)

theorem packCmd_turnLaw {ra n : Nat} {pack : Poly → List Byte} (h : packCmd i ra n pack s = .next t)
    (hslots : (operandsOf i s.params s.argv).slotSrc = [⟨ra, n⟩]) (hbytes : (operandsOf i s.params s.argv).bmSrc = []) :
    TurnLaw i s t := by
  obtain ⟨e, -, rfl⟩ | ⟨-, ps, hps, -, rfl⟩ := packCmd_eq_next h
  · exact .error e
  · exact .completed (.of_slots hslots hbytes hps)

theorem unpackCmd_turnLaw {rd n len : Nat} {unpack : List Byte → Poly} (h : unpackCmd i rd n len unpack s = .next t)
    (hslots : (operandsOf i s.params s.argv).slotSrc = [])
    (hbytes : (operandsOf i s.params s.argv).bmSrc = [⟨s.argv.a0.toNat, n * len⟩]) : TurnLaw i s t := by
  obtain ⟨e, -, rfl⟩ | ⟨-, bs, hbs, -, rfl⟩ := unpackCmd_eq_next h
  · exact .error e
  · exact .completed (.of_bytes hslots hbytes hbs)

/-- Where no session is open the seed came from BM (R203). -/
theorem seed_written {n : Nat} {seed : List Byte} (hi : isSampler i = true)
    (hseed : (s.xof = none ∧ s.bm.getRange s.argv.a0.toNat n = some seed) ∨ ∃ x, s.xof = some x ∧ x.msg.take n = seed) :
    s.xof = none ∨ isSampler i = false → s.bm.getRange s.argv.a0.toNat n ≠ none := by
  obtain ⟨-, hbm⟩ | ⟨x, hx, -⟩ := hseed
  · simp [hbm]
  · simp [hx, hi]

theorem sampleCmd_turnLaw {rd : Nat} {sl : SeedLen} {sampler : List Byte → Except Shortage Poly} {mode : XofMode}
    {msgs : List Byte → List (List Byte)} (h : sampleCmd i rd sl sampler mode msgs s = .next t) (hi : isSampler i = true)
    (hslots : (operandsOf i s.params s.argv).slotSrc = [])
    (hbytes : (operandsOf i s.params s.argv).bmSrc = [⟨s.argv.a0.toNat, sl.bytes⟩]) : TurnLaw i s t := by
  obtain ⟨e, -, rfl⟩ | ⟨-, seed, hseed, ⟨x, hx, rfl⟩ | ⟨ps, -, rfl⟩⟩ := sampleCmd_eq_next h
  · exact .error e
  · exact .running hi (runSessions_eq_error hx).2.2
  · refine .completed ⟨by simp [hslots], ?_⟩
    simpa [hbytes] using seed_written hi hseed

/-- The law holds of every command's turn: one case for each way in which a command reads its sources. -/
theorem exec_turnLaw (h : exec i s = .next t) : TurnLaw i s t := by
  cases i with
  | nop | smont | sred | scaddq | sp2r | sdecomp | smkhint | susehint =>
    cases h
    exact .completed (.of_none rfl rfl)
  | padd rd ra rb vl | psub rd ra rb vl | ppwm rd ra rb vl | pusehint rd ra rb vl => exact lift2_turnLaw h rfl rfl
  | pshl rd ra vl | pred rd ra vl | pcaddq rd ra vl | pntt rd ra vl | pinvntt rd ra vl => exact lift1_turnLaw h rfl rfl
  | pp2r rd ra rb vl | pdecomp rd ra rb vl => exact lift1Pair_turnLaw h rfl rfl
  | ppwms rd ra rb vl | ppwacc rd ra rb vl | pmkhint rd ra rb vl =>
    refine checked_turnLaw h fun h => ?_
    obtain ⟨as, has, -, h⟩ := withSlots_eq_next h
    obtain ⟨bs, hbs, -, h⟩ := withSlots_eq_next h
    cases h
    exact .completed (.of_two_slots rfl rfl has hbs)
  | pchknorm ra vl =>
    refine checked_turnLaw h fun h => ?_
    split at h
    · rename_i hbound
      cases h
      exact ⟨by simp, by simp, fun _ _ => .inl ⟨⟨_, _, rfl⟩, hbound⟩⟩
    · obtain ⟨ps, hps, -, h⟩ := withSlots_eq_next h
      cases h
      exact .completed (.of_slots rfl rfl hps)
  | matvec rd ra sl =>
    refine checked_turnLaw h fun h => ?_
    obtain ⟨rho, hseed, h⟩ := withSeed_eq_next h
    obtain ⟨vec, hvec, -, h⟩ := withSlots_eq_next h
    split at h
    · rename_i x hx
      cases h
      exact .running rfl (runSessions_eq_error hx).2.2
    · cases h
      refine .completed ⟨by simp [operandsOf, hvec], ?_⟩ nofun
      simpa [operandsOf] using seed_written rfl hseed
  | sunif rd vl sl | seta rd vl sl | schal rd sl => exact sampleCmd_turnLaw h rfl rfl rfl
  | sgamma1 rd vl sl =>
    refine checked_turnLaw h fun h => ?_
    obtain ⟨seed, hseed, -, h⟩ := withBytes_eq_next h
    cases h
    exact .completed (.of_bytes rfl rfl hseed)
  | pkt1 ra vl | pkt0 ra vl | pketa ra vl | pkz ra vl | pkw1 ra vl | stpoly ra vl => exact packCmd_turnLaw h rfl rfl
  | upkt1 rd vl | upkt0 rd vl | upketa rd vl | upkz rd vl | ldpoly rd vl => exact unpackCmd_turnLaw h rfl rfl
  | pkhint ra =>
    refine checked_turnLaw h fun h => ?_
    obtain ⟨hs, hhs, -, h⟩ := withSlots_eq_next h
    split at h
    · cases h
      exact .error _
    · cases h
      exact .completed (.of_slots rfl rfl hhs)
  | packsig ra rb =>
    refine checked_turnLaw h fun h => ?_
    obtain ⟨hs, hhs, -, h⟩ := withSlots_eq_next h
    split at h
    · cases h
      exact .error _
    · obtain ⟨c, hc, -, h⟩ := withBytes_eq_next h
      obtain ⟨z, hz, -, h⟩ := withSlots_eq_next h
      cases h
      exact .completed ⟨by simp [operandsOf, hhs, hz], by simp [operandsOf, hc]⟩
  | upkhint rd | unpacksig ra rb =>
    refine checked_turnLaw h fun h => ?_
    obtain ⟨y, hy, -, h⟩ := withBytes_eq_next h
    split at h
    · cases h
      exact .completed (.of_bytes rfl rfl hy)
    · cases h
      exact .completed (.of_bytes rfl rfl hy)
  | unpackpk rd | unpacksk rd ra rb =>
    refine checked_turnLaw h fun h => ?_
    obtain ⟨bs, hbs, -, h⟩ := withBytes_eq_next h
    cases h
    exact .completed (.of_bytes rfl rfl hbs)
  | packpk ra =>
    refine checked_turnLaw h fun h => ?_
    obtain ⟨rho, hrho, -, h⟩ := withBytes_eq_next h
    obtain ⟨t1, ht1, -, h⟩ := withSlots_eq_next h
    cases h
    exact .completed ⟨by simp [operandsOf, ht1], by simp [operandsOf, hrho]⟩
  | packsk rd ra rb =>
    refine checked_turnLaw h fun h => ?_
    obtain ⟨rho, hrho, -, h⟩ := withBytes_eq_next h
    obtain ⟨key, hkey, -, h⟩ := withBytes_eq_next h
    obtain ⟨tr, htr, -, h⟩ := withBytes_eq_next h
    obtain ⟨s1, hs1, -, h⟩ := withSlots_eq_next h
    obtain ⟨s2, hs2, -, h⟩ := withSlots_eq_next h
    obtain ⟨t0, ht0, -, h⟩ := withSlots_eq_next h
    cases h
    exact .completed ⟨by simp [operandsOf, hs1, hs2, ht0], by simp [operandsOf, hrho, hkey, htr]⟩
  | pzero rd vl | bzero =>
    refine checked_turnLaw h fun h => ?_
    cases h
    exact .completed (.of_none rfl rfl)
  | wipe =>
    refine checked_turnLaw h fun h => ?_
    cases h
    exact .completed (.of_none rfl rfl) nofun

/-- Settles O27: `exec_outcome` gives the three ends of a turn, and `exec_turnLaw` what each leaves open. -/
theorem commandFrame : Obligations.CommandFrame := by
  intro i s t h
  have hlaw := exec_turnLaw h
  cases exec_outcome h with
  | error e he =>
    exact ⟨rfl, rfl, rfl, rfl, rfl, rfl, rfl, rfl, rfl, .inr ⟨rfl, rfl, rfl, .inr ⟨e, he, rfl⟩⟩⟩
  | running x =>
    obtain ⟨hi, hpos⟩ := hlaw.session x rfl
    refine ⟨rfl, rfl, rfl, rfl, rfl, rfl, rfl, rfl, rfl, .inl ⟨hi, x, rfl, ?_⟩⟩
    rw [hpos, streamBudget]
    cases s.xof <;> rfl
  | completed =>
    refine ⟨rfl, rfl, rfl, rfl, rfl, rfl, rfl, rfl, rfl, .inr ⟨rfl, rfl, rfl, .inl ⟨rfl, rfl, fun hmat hwipe => 
      hlaw.buffers (writesMatBuffers_eq_false hmat hwipe)⟩⟩⟩

/-! ## Unwritten sources -/

theorem withSlots_of_none {x n : Nat} {k : List Poly → Result} (h : s.pm.getRange x n = none) :
    withSlots s x n k = .fault .unwrittenSlot := by simp [withSlots, h]

theorem withBytes_of_none {a n : Nat} {k : List Byte → Result} (h : s.bm.getRange a n = none) :
    withBytes s a n k = .fault .unwrittenByte := by simp [withBytes, h]

theorem withSeed_of_closed {n : Nat} {k : List Byte → Result} (h : s.xof = none) :
    withSeed s n k = withBytes s s.argv.a0.toNat n k := by simp [withSeed, h]

/-- A seed that is held, in BM or in the open session, is the one the command goes on with (R67, R203). -/
theorem withSeed_of_seedHeld {seed : List Byte} {k : List Byte → Result} (h : Spec.SeedHeld s s.argv.a0.toNat seed) :
    withSeed s seed.length k = k seed := by
  obtain ⟨hxof, hwf, hbytes⟩ | ⟨x, hx, htake⟩ := h
  · rw [withSeed_of_closed hxof]
    exact withBytes_of_some ((Sparse.getRange_eq_some_iff hwf.1).mpr ⟨rfl, hbytes⟩)
  · simp [withSeed, hx, htake]

/-- A command that passes its checks and reads the slots of its one source range first faults where one is unwritten. -/
theorem exec_fault_of_unwrittenSlot {v : Args} {x n : Nat} {k : List Poly → Result} (hlatch : s.latch = some v)
    (hwf : PolyMem.wf s.params s.pm) (hexec : exec i s = checked i s (withSlots s x n k)) (hsrc : Spec.slotsIn i = [(x, n)])
    (hpass : Spec.Passes s.params v i) (hun : ∃ r ∈ Spec.slotsIn i, ∃ k, k < r.2 ∧ s.pm.get (r.1 + k) = none) :
    exec i s = .fault .unwrittenSlot := by
  obtain rfl := State.argv_of_latch hlatch
  rw [hsrc] at hun
  obtain ⟨r, hr, hun⟩ := hun
  obtain rfl := List.mem_singleton.mp hr
  have hnone : s.pm.getRange x n = none := (Sparse.getRange_eq_none_iff hwf.1).mpr hun
  rw [hexec, checked_of_valid ((validate_iff_passes ..).mpr hpass), withSlots_of_none hnone]

/-- A command that passes its checks and reads the bytes of its one source range first faults where one is unwritten. -/
theorem exec_fault_of_unwrittenByte {v : Args} {a n : Nat} {k : List Byte → Result} (hlatch : s.latch = some v)
    (hwf : Memory.wf s.params s.bm) (hexec : exec i s = checked i s (withBytes s a n k))
    (hsrc : (operandsOf i s.params s.argv).bmSrc = [⟨a, n⟩])
    (hpass : Spec.Passes s.params v i) (hun : ∃ r ∈ Spec.bytesIn s.params v i, ∃ k, k < r.2 ∧ s.bm.get (r.1 + k) = none) :
    exec i s = .fault .unwrittenByte := by
  obtain rfl := State.argv_of_latch hlatch
  rw [bytesIn_eq, hsrc] at hun
  obtain ⟨r, hr, hun⟩ := hun
  obtain rfl := List.mem_singleton.mp hr
  have hnone : s.bm.getRange a n = none := (Sparse.getRange_eq_none_iff hwf.1).mpr hun
  rw [hexec, checked_of_valid ((validate_iff_passes ..).mpr hpass), withBytes_of_none hnone]

/-- The same of the samplers and MATVEC where no session is open, whose seed comes from BM then (R203). -/
theorem exec_fault_of_unwrittenSeed {v : Args} {n : Nat} {k : List Byte → Result} (hlatch : s.latch = some v)
    (hwf : Memory.wf s.params s.bm) (hxof : s.xof = none) (hexec : exec i s = checked i s (withSeed s n k))
    (hsrc : (operandsOf i s.params s.argv).bmSrc = [⟨s.argv.a0.toNat, n⟩])
    (hpass : Spec.Passes s.params v i) (hun : ∃ r ∈ Spec.bytesIn s.params v i, ∃ k, k < r.2 ∧ s.bm.get (r.1 + k) = none) :
    exec i s = .fault .unwrittenByte :=
  exec_fault_of_unwrittenByte hlatch hwf (hexec.trans (by rw [withSeed_of_closed hxof])) hsrc hpass hun

/-- `SourcesWritten` key by key, in the statements' words. -/
theorem SourcesWritten.get_ne_none {v : Args} (h : SourcesWritten i s) (hlatch : s.latch = some v)
    (hpm : PolyMem.wf s.params s.pm) (hbm : Memory.wf s.params s.bm) :
    (∀ r ∈ Spec.slotsIn i, ∀ k, k < r.2 → s.pm.get (r.1 + k) ≠ none) ∧
    (s.xof = none ∨ isSampler i = false → ∀ r ∈ Spec.bytesIn s.params v i, ∀ k, k < r.2 → s.bm.get (r.1 + k) ≠ none) := by
  obtain rfl := State.argv_of_latch hlatch
  rw [slotsIn_eq i s.params s.argv, bytesIn_eq, List.forall_mem_map, List.forall_mem_map]
  exact ⟨fun r hr k hk hnone => h.slots r hr ((Sparse.getRange_eq_none_iff hpm.1).mpr ⟨k, hk, hnone⟩),
    fun hread r hr k hk hnone => h.bytes hread r hr ((Sparse.getRange_eq_none_iff hbm.1).mpr ⟨k, hk, hnone⟩)⟩

/-- A running command that has ended without an error had its sources written, or was PCHKNORM with a bound that decides. -/
theorem exec_completed_sources (h : exec i s = .next t) (hrun : s.seq = .run) (hidle : t.seq = .idle) (herr : t.err = false) :
    BoundDecides i s ∨ SourcesWritten i s := by
  have hlaw := exec_turnLaw h
  cases exec_outcome h with
  | error => cases herr
  | running => cases hrun.symm.trans hidle
  | completed => exact hlaw.sources rfl herr

theorem boundTooLarge_iff (b : Int) : boundTooLarge b = true ↔ b > 1047552 := by
  rw [boundTooLarge, decide_eq_true_iff]
  norm_num [Config.q]

/-- PCHKNORM with a bound above (Q-1)/8 completes with RESULT = 1 whatever its slots hold (R174, R175). -/
theorem exec_pchknorm_of_boundTooLarge {ra : Nat} {vl : VecLen} (hbound : boundTooLarge s.argv.a0.toInt = true)
    (hfit : Spec.SlotsFit s ra vl.count) : exec (.pchknorm ra vl) s = .next (s.complete 1 0) := by
  have hpass : validate s.params (operandsOf (.pchknorm ra vl) s.params s.argv) = none := by
    rw [validate_eq_none_iff]
    simpa [operandsOf, overlapping, pairwiseDisjoint] using hfit
  change checked _ s _ = _
  rw [checked_of_valid hpass, if_pos hbound]

/-- PCHKNORM with a bound up to (Q-1)/8 reads its slots first (R174, R175). -/
theorem exec_pchknorm_of_bound {ra : Nat} {vl : VecLen} (hbound : ¬ boundTooLarge s.argv.a0.toInt = true) :
    exec (.pchknorm ra vl) s = checked (.pchknorm ra vl) s (withSlots s ra vl.count fun ps =>
      .next (s.complete (if ps.any fun p => chkNorm p s.argv.a0.toInt then 1 else 0) 0)) := by
  change checked _ s _ = _
  rw [if_neg hbound]

/-- MATVEC reads its source vector right after the seed (notes/assumptions/27.md). -/
theorem exec_matvec_fault_of_unwrittenSlot {v : Args} {rd ra : Nat} {sl : SeedLen} {seed : List Byte}
    (hlatch : s.latch = some v) (hwf : PolyMem.wf s.params s.pm) (hlen : seed.length = sl.bytes)
    (hseed : Spec.SeedHeld s v.a0.toNat seed) (hpass : Spec.Passes s.params v (.matvec rd ra sl))
    (hun : ∃ k, k < 7 ∧ s.pm.get (ra + k) = none) : exec (.matvec rd ra sl) s = .fault .unwrittenSlot := by
  obtain rfl := State.argv_of_latch hlatch
  have hnone : s.pm.getRange ra Config.vecL = none := (Sparse.getRange_eq_none_iff hwf.1).mpr hun
  change checked _ s (withSeed s sl.bytes _) = _
  rw [checked_of_valid ((validate_iff_passes ..).mpr hpass), ← hlen, withSeed_of_seedHeld hseed, withSlots_of_none hnone]

/-- Settles O26: a completion has read written sources, and each command that reads its one source range first faults where that
range is not all written. -/
theorem unwrittenSourcesFault : Obligations.UnwrittenSourcesFault := by
  refine ⟨fun i s t v hpm hbm hlatch hrun h hidle herr hbound => ?_, fun s v ra vl hlatch hbound hfit => ?_,
    fun s v rd ra rb vl sl hpm hbm hlatch => ⟨fun i hi hpass hbound hun => ?_, fun i hi hpass hun => ?_,
      fun i hi hpass hxof hun => ?_, fun seed hlen hseed hpass hun => ?_⟩⟩
  · refine ((exec_completed_sources h hrun hidle herr).resolve_left ?_).get_ne_none hlatch hpm hbm
    rintro ⟨⟨ra, vl, rfl⟩, hlarge⟩
    rw [boundTooLarge_iff, State.argv_of_latch hlatch] at hlarge
    exact absurd (hbound ra vl rfl) (Int.not_le.mpr hlarge)
  · rw [← State.argv_of_latch hlatch, ← boundTooLarge_iff] at hbound
    exact exec_pchknorm_of_boundTooLarge hbound hfit
  · by_cases hnorm : i = .pchknorm ra vl
    · have hsmall : ¬ boundTooLarge s.argv.a0.toInt = true := by
        rw [boundTooLarge_iff, State.argv_of_latch hlatch]
        exact Int.not_lt.mpr (hbound hnorm)
      subst hnorm
      exact exec_fault_of_unwrittenSlot hlatch hpm (exec_pchknorm_of_bound hsmall) rfl hpass hun
    · simp only [List.mem_cons, hnorm, List.not_mem_nil, or_false, false_or] at hi
      obtain rfl | rfl | rfl | rfl | rfl | rfl | rfl | rfl | rfl | rfl | rfl | rfl | rfl | rfl := hi
      all_goals exact exec_fault_of_unwrittenSlot hlatch hpm rfl rfl hpass hun
  · simp only [List.mem_cons, List.not_mem_nil, or_false] at hi
    obtain rfl | rfl | rfl | rfl | rfl | rfl | rfl | rfl | rfl | rfl := hi
    all_goals exact exec_fault_of_unwrittenByte hlatch hbm rfl rfl hpass hun
  · simp only [List.mem_cons, List.not_mem_nil, or_false] at hi
    obtain rfl | rfl | rfl | rfl := hi
    all_goals exact exec_fault_of_unwrittenSeed hlatch hbm hxof rfl rfl hpass hun
  · exact exec_matvec_fault_of_unwrittenSlot hlatch hpm hlen hseed hpass hun

end Sys2Proof.Machine

/-! # The host window (O10, O11, O12)

`windowTarget` says what an access reaches: one lemma for each answer says when it is given, and one for each answer what a load
and a store then do. A BM load is read off the byte string that BM holds, so that the loads after a wider store need only say
which bytes of the stored value they meet. -/

namespace Sys2Proof.Machine

open Spec

variable {s t : State} {p : Config.Params} {w : Width} {off a n : Nat}

/-! ## What an access reaches (R53 to R55) -/

theorem windowTarget_of_register (hoff : off < 0x40) (halign : off % 4 = 0) : windowTarget p .w32 off = .csr := by
  simp [windowTarget, hoff, halign]

/-- A naturally aligned access inside BM reaches its bytes (R55). -/
theorem windowTarget_of_fit (halign : a % widthBytes w = 0) (hfit : a + widthBytes w ≤ p.bmSize) :
    windowTarget p w (0x4000 + a) = .bm a := by
  have hpos : 0 < widthBytes w := by cases w <;> decide
  have haligned : (0x4000 + a) % widthBytes w = 0 := by cases w <;> simp only [widthBytes] at halign ⊢ <;> omega
  rw [windowTarget, if_neg (by omega), if_neg (by omega), if_pos (by omega), if_pos ⟨haligned, by omega⟩,
    Nat.add_sub_cancel_left]

theorem windowTarget_of_beyond (hoff : 0x4000 + p.bmSize ≤ off) : windowTarget p w off = .outside := by
  rw [windowTarget, if_neg (by omega), if_neg (by omega), if_neg (by omega)]

/-- Exactly which accesses below the window's end are bus errors (R54, R55). -/
theorem windowTarget_eq_busError_iff (hoff : off < 0x4000 + p.bmSize) :
    windowTarget p w off = .busError ↔
      (off < 0x40 ∧ (w ≠ .w32 ∨ off % 4 ≠ 0)) ∨ (0x40 ≤ off ∧ off < 0x4000) ∨
        (0x4000 ≤ off ∧ (off % widthBytes w ≠ 0 ∨ 0x4000 + p.bmSize < off + widthBytes w)) := by
  rw [windowTarget]
  split_ifs with hregister haccess hgap hnatural
  · obtain ⟨rfl, halign⟩ := haccess
    simp only [ne_eq, not_true_eq_false, false_or, false_iff]
    omega
  · simp only [true_iff]
    exact .inl ⟨hregister, not_and_or.mp haccess⟩
  · simp only [true_iff]
    omega
  · simp only [false_iff]
    omega
  · simp only [true_iff]
    omega

/-! ## What an access does -/

theorem hostLoad_of_csr {h : Fin 8} (htarget : windowTarget s.params w off = .csr) :
    hostLoad w off h s = .next ((csrRead s off).2.setHostReg h (csrRead s off).1).hostNext := by
  rw [hostLoad, htarget]

theorem hostStore_of_csr {v : Word} (htarget : windowTarget s.params w off = .csr) :
    hostStore w off v s = .next (csrWrite s off v).hostNext := by
  rw [hostStore, htarget]

theorem hostLoad_of_bm_run {h : Fin 8} (htarget : windowTarget s.params w off = .bm a) (hrun : s.seq = .run) :
    hostLoad w off h s = .refused .bmAccessWhileBusy := by
  simp only [hostLoad, htarget, (State.busy_eq_true s).mpr hrun, if_true]

theorem hostStore_of_bm_run {v : Word} (htarget : windowTarget s.params w off = .bm a) (hrun : s.seq = .run) :
    hostStore w off v s = .refused .bmAccessWhileBusy := by
  simp only [hostStore, htarget, (State.busy_eq_true s).mpr hrun, if_true]

theorem hostLoad_of_bm_idle {h : Fin 8} (htarget : windowTarget s.params w off = .bm a) (hidle : s.seq = .idle) :
    hostLoad w off h s = withBytes s a (widthBytes w) fun bs =>
      .next (s.setHostReg h (BitVec.ofNat 32 (bytesToNat bs))).hostNext := by
  simp only [hostLoad, htarget, (State.busy_eq_false s).mpr hidle, Bool.false_eq_true, if_false]

theorem hostStore_of_bm_idle {v : Word} (htarget : windowTarget s.params w off = .bm a) (hidle : s.seq = .idle) :
    hostStore w off v s = .next (s.writeBytes a (natToBytes (widthBytes w) v.toNat)).hostNext := by
  simp only [hostStore, htarget, (State.busy_eq_false s).mpr hidle, Bool.false_eq_true, if_false]

theorem hostLoad_of_outside {h : Fin 8} (htarget : windowTarget s.params w off = .outside) :
    hostLoad w off h s = .refused .outsideWindow := by
  rw [hostLoad, htarget]

theorem hostStore_of_outside {v : Word} (htarget : windowTarget s.params w off = .outside) :
    hostStore w off v s = .refused .outsideWindow := by
  rw [hostStore, htarget]

/-- Reading bytes faults with no bus error of its own. -/
theorem withBytes_ne_busError (s : State) (a n : Nat) (k : List Byte → State) :
    withBytes s a n (fun bs => .next (k bs)) ≠ .fault .busError := by
  unfold withBytes
  split <;> simp

/-- A load is a bus error exactly where its access is one: no other path of it ends in that fault (R306). -/
theorem hostLoad_eq_busError_iff {h : Fin 8} :
    hostLoad w off h s = .fault .busError ↔ windowTarget s.params w off = .busError := by
  cases htarget : windowTarget s.params w off with
  | csr => simp [hostLoad_of_csr htarget]
  | bm a =>
    cases hseq : s.seq with
    | idle => simp [hostLoad_of_bm_idle htarget hseq, withBytes_ne_busError]
    | run => simp [hostLoad_of_bm_run htarget hseq]
  | busError => simp [hostLoad, htarget]
  | outside => simp [hostLoad_of_outside htarget]

/-- A store is a bus error exactly where its access is one (R306). -/
theorem hostStore_eq_busError_iff {v : Word} :
    hostStore w off v s = .fault .busError ↔ windowTarget s.params w off = .busError := by
  cases htarget : windowTarget s.params w off with
  | csr => simp [hostStore_of_csr htarget]
  | bm a =>
    cases hseq : s.seq with
    | idle => simp [hostStore_of_bm_idle htarget hseq]
    | run => simp [hostStore_of_bm_run htarget hseq]
  | busError => simp [hostStore, htarget]
  | outside => simp [hostStore_of_outside htarget]

/-! ## What an access leaves of the host -/

theorem State.abort_host (s : State) : s.abort.host = s.host := by
  obtain ⟨pm, bm, heq, -⟩ := s.abort_eq
  rw [heq, State.endWithError_host]

/-- A CSR write leaves the host as it was: registers and place are the host's own (R19, R85). -/
@[simp] theorem csrWrite_host (s : State) (off : Nat) (v : Word) : (csrWrite s off v).host = s.host := by
  unfold csrWrite
  split
  case h_1 =>
    unfold State.writeCmd
    split <;> rfl
  case h_3 =>
    unfold State.writeCtrl
    split
    · exact State.abort_host _
    · rfl
  all_goals rfl

@[simp] theorem State.hostNext_hostReg (s : State) (h : Fin 8) : s.hostNext.hostReg h = s.hostReg h := rfl

@[simp] theorem State.setHostReg_hostReg (s : State) (h : Fin 8) (v : Word) : (s.setHostReg h v).hostReg h = v :=
  Vector.getElem_set_self ..

/-- Settles O10: the bus errors are the window map's, and an aligned register access is the register's, the host's place apart. -/
theorem windowBusErrors : Obligations.WindowBusErrors := by
  intro s w off h v n bad
  refine ⟨fun hoff => ?_, fun hoff hw halign => ?_, fun hoff => ?_⟩
  · have hbad : windowTarget s.params w off = .busError ↔ bad := windowTarget_eq_busError_iff hoff
    exact ⟨hostLoad_eq_busError_iff.trans hbad, hostStore_eq_busError_iff.trans hbad⟩
  · subst hw
    have htarget : windowTarget s.params .w32 off = .csr := windowTarget_of_register hoff halign
    constructor
    · obtain ⟨count, hread⟩ := csrRead_state s off
      rw [hostLoad_of_csr htarget, hread]
      rfl
    · rw [hostStore_of_csr htarget, State.hostNext, State.hostGoto, csrWrite_host]
  · exact ⟨hostLoad_of_outside (windowTarget_of_beyond hoff), hostStore_of_outside (windowTarget_of_beyond hoff)⟩

/-! ## Loads and stores of BM (R51, R52, R58, R59) -/

/-- The model's number of a byte string is the statements' (R51). -/
theorem bytesToNat_eq_value (bs : List Byte) : bytesToNat bs = value bs := by
  induction bs with
  | nil => rfl
  | cons b bs ih => rw [value, ← ih]; rfl

/-- The number that a number's n bytes hold, in the statements' words (R51). -/
theorem value_natToBytes (n v : Nat) : value (natToBytes n v) = v % 256 ^ n := by
  rw [← bytesToNat_eq_value, bytesToNat_natToBytes, pow_mul]
  rfl

/-- A range read gives the byte string that BM holds there. -/
theorem getRange_of_bytesHold {bs : List Byte} (hlen : bs.length = n) (hold : BytesHold s a bs) :
    s.bm.getRange a n = some bs := by
  obtain ⟨hwf, hbytes⟩ := hold
  exact (Sparse.getRange_eq_some_iff hwf.1).mpr ⟨hlen, fun k hk => hbytes k (hlen ▸ hk)⟩

/-- A BM load of an idle block gives the number of the bytes held (R51, R52). -/
theorem hostLoad_of_bytesHold {h : Fin 8} {bs : List Byte} (htarget : windowTarget s.params w off = .bm a)
    (hidle : s.seq = .idle) (hlen : bs.length = widthBytes w) (hold : BytesHold s a bs) :
    hostLoad w off h s = .next (s.setHostReg h (BitVec.ofNat 32 (value bs))).hostNext := by
  rw [hostLoad_of_bm_idle htarget hidle, withBytes_of_some (getRange_of_bytesHold hlen hold), bytesToNat_eq_value]

/-- A BM load of an idle block faults where one of its bytes is unwritten (R59). -/
theorem hostLoad_of_unwritten {h : Fin 8} (htarget : windowTarget s.params w off = .bm a) (hidle : s.seq = .idle)
    (hwf : Memory.wf s.params s.bm) (hun : ∃ k, k < widthBytes w ∧ s.bm.get (a + k) = none) :
    hostLoad w off h s = .fault .unwrittenByte := by
  rw [hostLoad_of_bm_idle htarget hidle, withBytes_of_none ((Sparse.getRange_eq_none_iff hwf.1).mpr hun)]

/-- Settles O11: the access reaches its bytes, and each clause is what a load or store of them does. -/
theorem hostByteAccess : Obligations.HostByteAccess := by
  intro s w n a h v hn halign hfit
  obtain rfl : n = widthBytes w := by
    simp only [List.mem_cons, Prod.mk.injEq, List.not_mem_nil, or_false] at hn
    obtain ⟨rfl, rfl⟩ | ⟨rfl, rfl⟩ | ⟨rfl, rfl⟩ := hn <;> rfl
  have htarget : windowTarget s.params w (0x4000 + a) = .bm a := windowTarget_of_fit halign hfit
  refine ⟨fun hrun => ⟨hostLoad_of_bm_run htarget hrun, hostStore_of_bm_run htarget hrun⟩, fun hidle =>
    ⟨fun bs hlen hold => hostLoad_of_bytesHold htarget hidle hlen hold,
      fun hwf hun => hostLoad_of_unwritten htarget hidle hwf hun, ?_⟩⟩
  exact ⟨_, _, hostStore_of_bm_idle htarget hidle, natToBytes_length _ _, value_natToBytes _ _, Sparse.get_setRange _ _ _, rfl⟩

/-! ## Loads after a wider store (R52) -/

/-- The bytes of a number from byte k on are the bytes of the number shifted down (R51, R52). -/
theorem bytesHold_of_stored {m k v : Nat} (hwf : Memory.wf s.params s.bm) (hfit : BytesFit s a m) (hk : k + n ≤ m) :
    BytesHold (s.writeBytes a (natToBytes m v)) (a + k) (natToBytes n (v / 2 ^ (8 * k))) := by
  refine ⟨Sparse.wfBelow_setRange hwf (by simpa using hfit), fun j hj => ?_⟩
  rw [natToBytes_length] at hj
  have hin : a ≤ a + k + j ∧ a + k + j < a + m := by omega
  rw [State.writeBytes_bm, Sparse.get_setRange, natToBytes_length, if_pos hin, getElem?_natToBytes, getElem?_natToBytes,
    if_pos hj, if_pos (by omega), Nat.div_div_eq_div_mul, ← pow_add, ← Nat.mul_add, Nat.add_assoc, Nat.add_sub_cancel_left]

/-- A load of any width inside a 32-bit word just stored gives the bytes of the word that it covers (R52). -/
theorem hostLoad_of_stored_word {k : Nat} {v : Word} (h : Fin 8) (hwf : Memory.wf s.params s.bm) (hidle : s.seq = .idle)
    (halign : a % 4 = 0) (hfit : BytesFit s a 4) (hstore : hostStore .w32 (0x4000 + a) v s = .next t)
    (hk : k + widthBytes w ≤ 4) (hkalign : k % widthBytes w = 0) :
    ∃ u, hostLoad w (0x4000 + a + k) h t = .next u ∧
      (u.hostReg h).toNat = v.toNat / 2 ^ (8 * k) % 256 ^ widthBytes w := by
  rw [hostStore_of_bm_idle (windowTarget_of_fit halign hfit) hidle] at hstore
  obtain rfl := Host.Outcome.next.inj hstore
  have haligned : (a + k) % widthBytes w = 0 := by cases w <;> simp only [widthBytes] at hkalign ⊢ <;> omega
  have htarget : windowTarget s.params w (0x4000 + a + k) = .bm (a + k) := by
    rw [Nat.add_assoc]
    exact windowTarget_of_fit haligned (by omega)
  have hhold : BytesHold (s.writeBytes a (natToBytes 4 v.toNat)) (a + k) (natToBytes (widthBytes w) (v.toNat / 2 ^ (8 * k))) :=
    bytesHold_of_stored hwf hfit hk
  have hlt : v.toNat / 2 ^ (8 * k) % 256 ^ widthBytes w < 2 ^ 32 :=
    (Nat.mod_le _ _).trans_lt ((Nat.div_le_self _ _).trans_lt v.isLt)
  refine ⟨_, hostLoad_of_bytesHold htarget hidle (natToBytes_length _ _) hhold, ?_⟩
  rw [State.hostNext_hostReg, State.setHostReg_hostReg, value_natToBytes, BitVec.toNat_ofNat, Nat.mod_eq_of_lt hlt]

/-- Settles O12: the 8-bit loads at byte i, and the 16-bit loads at byte 2j. -/
theorem accessWidthsAgree : Obligations.AccessWidthsAgree := by
  intro s t a v h hwf hidle halign hfit hstore
  refine ⟨fun i hi => ?_, fun j hj => ?_⟩
  · exact hostLoad_of_stored_word (w := .w8) h hwf hidle halign hfit hstore hi (Nat.mod_one i)
  · have hk : 2 * j + 2 ≤ 4 := by omega
    obtain ⟨u, hload, hval⟩ :=
      hostLoad_of_stored_word (w := .w16) h hwf hidle halign hfit hstore hk (Nat.mul_mod_right 2 j)
    exact ⟨u, hload, by rw [hval, ← Nat.mul_assoc]; rfl⟩

end Sys2Proof.Machine

/-! # The encoding (O15 to O20, O22)

`decode_eq_ok_iff` says once what a decoded word is: a row of the opcode table whose unused fields are 0, with the command the
row makes of the fields. One case split over the rows (`encode_of_opRow`) says that the encoder packs exactly the fields a row
uses; `and_unusedMask_eq_zero_iff` says that a row's mask of R82 tests exactly the fields the row does not use. -/

namespace Sys2Proof

variable {w : Word} {i : Instr} {f : Fields} {sh : Shape} {mk : Fields → Instr}

/-! ## What a word decodes to (R70, R73, R79) -/

theorem fieldsFit (w : Word) : FieldsFit (opField w) (rdField w) (raField w) (rbField w) (vlField w) (sField w) :=
  ⟨Nat.mod_lt _ (by decide), Nat.mod_lt _ (by decide), Nat.mod_lt _ (by decide), Nat.mod_lt _ (by decide),
    Nat.mod_lt _ (by decide), Nat.mod_lt _ (by decide)⟩

theorem vlCode_of_vlOfCode {c : Nat} {vl : VecLen} (h : vlOfCode c = some vl) : vlCode vl = c := by
  unfold vlOfCode at h
  split at h <;> cases h <;> rfl

theorem seedCode_of_seedOfCode {c : Nat} {sl : SeedLen} (h : seedOfCode c = some sl) : seedCode sl = c := by
  unfold seedOfCode at h
  split at h <;> cases h <;> rfl

/-- The fields read from a word are its fields, and the selectors are those that VL and S encode (R73, R74). -/
theorem eq_fields_of_readFields (h : readFields w = some f) :
    f.rd = rdField w ∧ f.ra = raField w ∧ f.rb = rbField w ∧ vlCode f.vl = vlField w ∧ seedCode f.sl = sField w := by
  unfold readFields at h
  split at h
  next vl sl hv hs =>
    cases h
    exact ⟨rfl, rfl, rfl, vlCode_of_vlOfCode hv, seedCode_of_seedOfCode hs⟩
  next => cases h

/-- The fields of a word can be read exactly where VL is not the reserved value 3 (R73). -/
theorem exists_readFields_iff : (∃ f, readFields w = some f) ↔ vlField w ≠ 3 := by
  constructor
  · rintro ⟨f, hread⟩ h3
    obtain ⟨-, -, -, hvl, -⟩ := eq_fields_of_readFields hread
    have hcode : vlCode f.vl ≠ 3 := by cases f.vl <;> decide
    exact hcode (hvl.trans h3)
  · intro h3
    have hv := (fieldsFit w).vl
    have hs := (fieldsFit w).sl
    obtain ⟨vl, hvl⟩ : ∃ vl, vlOfCode (vlField w) = some vl := by
      interval_cases vlField w
      exacts [⟨_, rfl⟩, ⟨_, rfl⟩, ⟨_, rfl⟩, absurd rfl h3]
    obtain ⟨sl, hsl⟩ : ∃ sl, seedOfCode (sField w) = some sl := by
      interval_cases sField w
      exacts [⟨_, rfl⟩, ⟨_, rfl⟩]
    exact ⟨⟨rdField w, raField w, rbField w, vl, sl⟩, by rw [readFields, hvl, hsl]⟩

theorem decode_of_opRow_none (h : opRow (opField w) = none) : decode w = .error .illegalOpcode := by rw [decode, h]

theorem decode_of_opRow (h : opRow (opField w) = some (sh, mk)) :
    decode w = if fieldsOk sh w then (readFields w).elim (.error .reservedField) fun f => .ok (mk f)
      else .error .reservedField := by
  rw [decode, h]
  cases readFields w <;> rfl

/-- A word decodes to a command exactly where its OP has a row, the fields the row does not use are 0, and its fields are read;
the command is the one the row makes of them (R75, R79, R80). -/
theorem decode_eq_ok_iff : decode w = .ok i ↔ ∃ sh mk f,
    opRow (opField w) = some (sh, mk) ∧ fieldsOk sh w = true ∧ readFields w = some f ∧ i = mk f := by
  constructor
  · intro h
    rcases hrow : opRow (opField w) with _ | ⟨sh, mk⟩
    · simp [decode_of_opRow_none hrow] at h
    · rw [decode_of_opRow hrow] at h
      by_cases hok : fieldsOk sh w = true
      · rcases hread : readFields w with _ | f
        · simp [hok, hread] at h
        · simp only [hok, hread, if_true, Option.elim_some, Except.ok.injEq] at h
          exact ⟨sh, mk, f, rfl, hok, rfl, h.symm⟩
      · simp [hok] at h
  · rintro ⟨sh, mk, f, hrow, hok, hread, rfl⟩
    rw [decode_of_opRow hrow, if_pos hok, hread, Option.elim_some]

/-- A word is ILLEGAL_OPCODE exactly where no row has its OP, whatever its other fields are (R79). -/
theorem decode_eq_illegalOpcode_iff : decode w = .error .illegalOpcode ↔ opRow (opField w) = none := by
  refine ⟨fun h => ?_, decode_of_opRow_none⟩
  rcases hrow : opRow (opField w) with _ | ⟨sh, mk⟩
  · rfl
  · rw [decode_of_opRow hrow] at h
    by_cases hok : fieldsOk sh w = true
    · cases hread : readFields w <;> simp [hok, hread] at h
    · simp [hok] at h

/-! ## The encoder packs the fields of a command's row (R75, R80) -/

/-- A field's value in the word of a command whose row does or does not use it. -/
def usedValue (used : Bool) (x : Nat) : Nat := if used then x else 0

theorem usedValue_of_unusedZero {used : Bool} {x : Nat} (h : unusedZero used x = true) : usedValue used x = x := by
  cases used
  · exact (beq_iff_eq.mp h).symm
  · rfl

/-- The encoder and the decoder read the same table: row by row, the command a row makes of any fields encodes to the row's OP
and the fields the row uses. -/
theorem encode_of_opRow {op : Nat} (h : opRow op = some (sh, mk)) (f : Fields) :
    encode (mk f) = packWord op (usedValue sh.rd f.rd) (usedValue sh.ra f.ra) (usedValue sh.rb f.rb)
      (usedValue sh.vl (vlCode f.vl)) (usedValue sh.sl (seedCode f.sl)) := by
  unfold opRow at h
  split at h <;> cases h <;> rfl

/-- A row makes a well-formed command of slot numbers that fit. -/
theorem wf_of_opRow {op : Nat} (h : opRow op = some (sh, mk)) (hd : slotFits f.rd = true) (ha : slotFits f.ra = true)
    (hb : slotFits f.rb = true) : (mk f).wf = true := by
  unfold opRow at h
  split at h <;> cases h <;> simp [Instr.wf, hd, ha, hb]

/-- A word is packed from its fields, where RSV is 0 (R70). -/
theorem packWord_fields (h : rsvField w = 0) :
    packWord (opField w) (rdField w) (raField w) (rbField w) (vlField w) (sField w) = w := by
  apply BitVec.eq_of_toNat_eq
  rw [packWord_toNat (fieldsFit w)]
  have hlt := w.isLt
  simp only [rsvField, opField, rdField, raField, rbField, vlField, sField] at h ⊢
  omega

/-- Settles O17: each command's row has its OP and uses its fields, so decoding reads back what was packed. -/
theorem decodeEncode : Obligations.DecodeEncode := fun _ hwf => decode_encode hwf

/-- Settles O18: the encoder packs the word's own fields, those the row does not use being 0. -/
theorem encodeDecode : Obligations.EncodeDecode := by
  intro w i h
  obtain ⟨sh, mk, f, hrow, hok, hread, rfl⟩ := decode_eq_ok_iff.mp h
  obtain ⟨hd, ha, hb, hvl, hsl⟩ := eq_fields_of_readFields hread
  have hfits (n : Nat) : slotFits (n % 64) = true := decide_eq_true (Nat.mod_lt n (by decide))
  refine ⟨wf_of_opRow hrow (hd ▸ hfits _) (ha ▸ hfits _) (hb ▸ hfits _), ?_⟩
  simp only [fieldsOk, Bool.and_eq_true, beq_iff_eq] at hok
  obtain ⟨⟨⟨⟨⟨hrsv, hd0⟩, ha0⟩, hb0⟩, hvl0⟩, hsl0⟩ := hok
  rw [encode_of_opRow hrow, hd, ha, hb, hvl, hsl, usedValue_of_unusedZero hd0, usedValue_of_unusedZero ha0,
    usedValue_of_unusedZero hb0, usedValue_of_unusedZero hvl0, usedValue_of_unusedZero hsl0, packWord_fields hrsv]

/-! ## The opcodes without a row (R81) -/

/-- The table has no row for exactly the opcodes of R81. -/
theorem opRow_eq_none_iff : ∀ op < 256, opRow op = none ↔ Spec.illegalOp op = true := by
  simp only [← Option.isNone_iff_eq_none]
  decide +kernel

/-- Settles O19: the words without a row. -/
theorem illegalOpcodes : Obligations.IllegalOpcodes :=
  ⟨fun _ => decode_eq_illegalOpcode_iff.trans (opRow_eq_none_iff _ (fieldsFit _).op), by decide +kernel⟩

/-! ## The rows as match and mask (R82) -/

/-- The field of a word that is width bits wide and begins at bit start, all its bits 1. -/
def fieldBits (start width : Nat) : Nat := (2 ^ width - 1) <<< start

/-- The bits of a field in a row's mask: none where the row uses the field. -/
def unusedBits (used : Bool) (start width : Nat) : Nat := if used then 0 else fieldBits start width

/-- The part of a row's mask above OP (R82): RSV, and each field the row does not use. -/
def Shape.unusedMask (sh : Shape) : Nat :=
  fieldBits 29 3 ||| unusedBits sh.rd 8 6 ||| unusedBits sh.ra 14 6 ||| unusedBits sh.rb 20 6 ||| unusedBits sh.vl 26 2
    ||| unusedBits sh.sl 28 1

theorem and_fieldBits (n start width : Nat) : n &&& fieldBits start width = (n / 2 ^ start % 2 ^ width) <<< start := by
  apply Nat.eq_of_testBit_eq
  intro j
  rw [fieldBits, ← Nat.and_two_pow_sub_one_eq_mod, Nat.testBit_and, Nat.testBit_shiftLeft, Nat.testBit_shiftLeft,
    Nat.testBit_and, Nat.testBit_div_two_pow]
  by_cases hj : start ≤ j <;> simp [hj]

theorem and_fieldBits_eq_zero_iff (n start width : Nat) : n &&& fieldBits start width = 0 ↔ n / 2 ^ start % 2 ^ width = 0 := by
  rw [and_fieldBits, Nat.shiftLeft_eq_zero_iff]

theorem and_unusedBits_eq_zero_iff (n start width : Nat) (used : Bool) :
    n &&& unusedBits used start width = 0 ↔ unusedZero used (n / 2 ^ start % 2 ^ width) = true := by
  cases used
  · exact (and_fieldBits_eq_zero_iff n start width).trans beq_iff_eq.symm
  · exact iff_of_true (Nat.and_zero n) rfl

/-- A word has only zeros under the mask above OP exactly where the fields its row does not use are 0 (R75). -/
theorem and_unusedMask_eq_zero_iff : w.toNat &&& sh.unusedMask = 0 ↔ fieldsOk sh w = true := by
  simp only [Shape.unusedMask, Nat.and_or_distrib_left, Nat.or_eq_zero_iff, and_unusedBits_eq_zero_iff,
    and_fieldBits_eq_zero_iff, fieldsOk, Bool.and_eq_true, beq_iff_eq]
  rfl

theorem Shape.unusedMask_mod (sh : Shape) : sh.unusedMask % 256 = 0 := by
  obtain ⟨rd, ra, rb, vl, sl⟩ := sh
  revert rd ra rb vl sl
  decide

/-- A word is an OP value under OP's mask and a mask above it exactly where its OP is that value and the mask above finds only
zeros. -/
theorem and_mask_eq_iff {n m op : Nat} (hop : op < 256) (hm : m % 256 = 0) :
    n &&& (255 ||| m) = op ↔ n % 256 = op ∧ n &&& m = 0 := by
  have hlow : n &&& 255 = n % 2 ^ 8 := Nat.and_two_pow_sub_one_eq_mod n 8
  have hdvd : 2 ^ 8 ∣ n &&& m := Nat.dvd_of_mod_eq_zero (by rw [Nat.and_mod_two_pow, hm, Nat.and_zero])
  obtain ⟨k, hk⟩ := hdvd
  have hor : 2 ^ 8 * k + n % 2 ^ 8 = 2 ^ 8 * k ||| n % 2 ^ 8 :=
    Nat.two_pow_add_eq_or_of_lt (Nat.mod_lt n (by decide)) k
  rw [Nat.and_or_distrib_left, hlow, hk, Nat.or_comm, ← hor]
  omega

/-- The rows of R82 are the rows of the opcode table, each with its OP as match and OP, RSV and the unused fields as mask. -/
theorem rows_eq_opRow :
    Spec.rows = (List.range 256).filterMap fun op => (opRow op).map fun row => (op, 255 ||| row.1.unusedMask) := by
  decide

/-- A word matches some row of R82 exactly where its OP has a row and the fields the row does not use are 0. -/
theorem matches_row_iff : (∃ r ∈ Spec.rows, w.toNat &&& r.2 = r.1) ↔
    ∃ sh mk, opRow (opField w) = some (sh, mk) ∧ fieldsOk sh w = true := by
  simp only [rows_eq_opRow, List.mem_filterMap, List.mem_range, Option.map_eq_some_iff]
  constructor
  · rintro ⟨-, ⟨op, hop, ⟨sh, mk⟩, hrow, rfl⟩, hmatch⟩
    obtain ⟨rfl, hzero⟩ := (and_mask_eq_iff hop sh.unusedMask_mod).mp hmatch
    exact ⟨sh, mk, hrow, and_unusedMask_eq_zero_iff.mp hzero⟩
  · rintro ⟨sh, mk, hrow, hok⟩
    exact ⟨_, ⟨opField w, (fieldsFit w).op, _, hrow, rfl⟩,
      (and_mask_eq_iff (fieldsFit w).op sh.unusedMask_mod).mpr ⟨rfl, and_unusedMask_eq_zero_iff.mpr hok⟩⟩

/-- Settles O20: the row is the one that decodes the word, and VL is readable where it is not 3. -/
theorem matchMaskRows : Obligations.MatchMaskRows := by
  intro w
  rw [matches_row_iff]
  change _ ↔ _ ∧ vlField w ≠ 3
  rw [← exists_readFields_iff]
  constructor
  · rintro ⟨i, h⟩
    obtain ⟨sh, mk, f, hrow, hok, hread, -⟩ := decode_eq_ok_iff.mp h
    exact ⟨⟨sh, mk, hrow, hok⟩, f, hread⟩
  · rintro ⟨⟨sh, mk, hrow, hok⟩, f, hread⟩
    exact ⟨mk f, decode_eq_ok_iff.mpr ⟨sh, mk, f, hrow, hok, hread, rfl⟩⟩

/-! ## Words written out (R83) -/

/-- Settles O16: each word's fields are computed and read by its row. -/
theorem specWordsDecode : Obligations.SpecWordsDecode := by
  unfold Obligations.SpecWordsDecode
  decide

end Sys2Proof

namespace Sys2Proof.Machine

variable {s : State}

/-! ## Words that are no command (R79) -/

theorem sequencerTurn_of_decodeError {e : DecodeError} (hrun : s.seq = .run) (hdec : decode s.cmd = .error e) :
    sequencerTurn s = .next (s.endWithError (decodeErrCode e)) := by
  simp [sequencerTurn, hrun, hdec]

/-- Settles O22: either decode error ends the turn with its own code. -/
theorem badWordEnds : Obligations.BadWordEnds :=
  fun _ hrun => ⟨sequencerTurn_of_decodeError hrun, sequencerTurn_of_decodeError hrun⟩

/-! ## The host's operations (R85) -/

theorem hostTurn_of_op {op : HostOp} (h : s.host.prog[s.host.pc]? = some op) : hostTurn s = hostOp op s := by
  rw [hostTurn, h]

theorem hostTurn_of_end (h : s.host.prog[s.host.pc]? = none) : hostTurn s = .next s := by
  rw [hostTurn, h]

/-- A branch of the host goes to the place its condition chooses, and to nothing else. -/
theorem next_ite_hostGoto (s : State) (c : Prop) [Decidable c] (p q : Nat) :
    (Host.Outcome.next (if c then s.hostGoto p else s.hostGoto q) : Result) = .next (s.hostGoto (if c then p else q)) := by
  rw [apply_ite s.hostGoto]

/-- Settles O15: the register operations and accesses are what the model's operations say, and a branch is `next_ite_hostGoto`. -/
theorem hostRegisterOperations : Obligations.HostRegisterOperations :=
  fun s _ _ _ t => ⟨rfl, rfl, rfl, next_ite_hostGoto s _ t _, next_ite_hostGoto s _ _ t, rfl, rfl, fun _ _ => ⟨rfl, rfl, rfl⟩,
    fun _ => hostTurn_of_op, hostTurn_of_end⟩

end Sys2Proof.Machine

/-! # Modular arithmetic (O28, O30, O31)

The model narrows an exact integer by `low32`, and the statements write `Spec.low` for the number that is left. O28 is read off
one equation for each formula. The properties (R106 to R108) are about the exact integer: for the Montgomery reduction it is the
quotient r with r·2^32 = a - t·Q for a signed 32-bit t, and in each range it is small enough for `low32` to keep it. -/

namespace Sys2Proof.Machine

open Spec (q low word mont reduce addQ)

/-! ## Narrowing and shifting (R12) -/

theorem low32_toInt (x : Int) : (low32 x).toInt = low x := BitVec.toInt_ofInt x

/-- Narrowing keeps an integer of the signed 32-bit range. -/
theorem low32_toInt_of_fits {x : Int} (hlo : -2147483648 ≤ x) (hhi : x < 2147483648) : (low32 x).toInt = x :=
  BitVec.toInt_ofInt_eq_self (by decide) hlo hhi

/-- The register word of a narrowed integer is the narrowed word. -/
theorem word_low (x : Int) : word (low x) = low32 x :=
  BitVec.eq_of_toInt_eq ((BitVec.toInt_ofInt _).trans (Int.bmod_bmod.trans (low32_toInt x).symm))

theorem sar_eq_ediv (x : Int) (n : Nat) : sar x n = x / 2 ^ n := by
  rw [sar, Int.shiftRight_eq_div_pow, Nat.cast_pow, Nat.cast_ofNat]

theorem dvd_low_sub (x : Int) : 4294967296 ∣ low x - x := Int.dvd_bmod_sub_self

theorem le_low (x : Int) : -2147483648 ≤ low x := Int.le_bmod (m := 4294967296) (by decide)

theorem low_lt (x : Int) : low x < 2147483648 := Int.bmod_lt (m := 4294967296) (by decide)

/-! ## The commands' formulas (R100 to R105) -/

theorem word_mont (a : Int) : word (mont a) = montgomeryReduce a := by
  rw [mont, word_low, montgomeryReduce, low32_toInt, sar_eq_ediv]
  rfl

theorem word_reduce (a : Int) : word (reduce a) = reduce32 a := by
  rw [reduce, word_low, reduce32, sar_eq_ediv]
  rfl

theorem word_addQ (a : Int) : word (addQ a) = caddq a := by
  rw [addQ, word_low, caddq]
  split
  · rfl
  · rw [Int.add_zero]

/-- The high word of SMONT's operand carries the sign (R76). -/
theorem smontOperand_eq (v : Args) : smontOperand v = v.a1.toInt * 4294967296 + v.a0.toNat := by
  rw [smontOperand, BitVec.toInt_append, if_neg (by decide), mul_comm]
  rfl

/-- Settles O28: each command completes with its formula's word, on the latched arguments. -/
theorem modularScalars : Obligations.ModularScalars := by
  intro s v hlatch
  rw [word_mont, word_reduce, word_addQ, ← smontOperand_eq, ← State.argv_of_latch hlatch]
  exact ⟨rfl, rfl, rfl, rfl⟩

/-! ## Montgomery reduction (R106, R109) -/

/-- The exact quotient behind a Montgomery reduction: QINV·Q ≡ 1 (mod 2^32), so t·Q ≡ a for the t taken. -/
theorem exists_montgomery_quotient (a : Int) :
    ∃ t r : Int, montgomeryReduce a = low32 r ∧ r * 4294967296 = a - t * 8380417 ∧ -2147483648 ≤ t ∧ t < 2147483648 := by
  have hdvd : 4294967296 ∣ a - low (a * 58728449) * 8380417 := by
    have hlow : 4294967296 ∣ low (a * 58728449) - a * 58728449 := dvd_low_sub _
    omega
  refine ⟨low (a * 58728449), (a - low (a * 58728449) * 8380417) / 4294967296, ?_, Int.ediv_mul_cancel hdvd, le_low _, low_lt _⟩
  rw [← word_mont, mont, word_low]

/-- Settles O30: |a - t·Q| < 2^32·Q on the half-open range, so the quotient lies strictly between -Q and Q and is the result. -/
theorem montgomeryReduces : Obligations.MontgomeryReduces := by
  refine ⟨fun a hlo hhi => ?_, by decide, by decide, by decide, by decide, by decide⟩
  obtain ⟨t, r, hresult, hquot, htlo, hthi⟩ := exists_montgomery_quotient a
  have hrlo : -8380417 < r := by omega
  have hrhi : r < 8380417 := by omega
  rw [hresult, low32_toInt_of_fits (by omega) (by omega), hquot]
  exact ⟨⟨-t, by ring⟩, hrlo, hrhi⟩

/-! ## The partial reduction and the conditional addition (R107, R108) -/

/-- The partial reduction of a 32-bit a takes t·Q off, t being a over 2^23 rounded to nearest, and nothing of it is lost. -/
theorem exists_reduce32_multiple {a : Int} (hlo : -2147483648 ≤ a) (hhi : a ≤ 2147483647) :
    ∃ t : Int, (reduce32 a).toInt = a - t * 8380417 ∧ t * 8388608 ≤ a + 4194304 ∧ a + 4194304 < (t + 1) * 8388608 := by
  refine ⟨(a + 4194304) / 8388608, ?_, by omega, by omega⟩
  rw [← word_reduce, reduce, q, word_low, low32_toInt_of_fits (by omega) (by omega)]

/-- Adding Q to a negative 32-bit a stays in range. -/
theorem caddq_toInt {a : Int} (hlo : -2147483648 ≤ a) (hhi : a ≤ 2147483647) :
    (caddq a).toInt = if a < 0 then a + 8380417 else a := by
  rw [← word_addQ, addQ, q, word_low, low32_toInt_of_fits (by split <;> omega) (by split <;> omega)]

/-- Settles O31: in the first range t ≤ 255, above it t = 256. -/
theorem partialReductions : Obligations.PartialReductions := by
  refine ⟨fun a hlo hhi => ?_, by decide, by decide, fun a hlo hhi => ?_, fun a hlo hhi => ?_⟩
  · obtain ⟨t, hresult, hfloor, hceil⟩ := exists_reduce32_multiple hlo (by omega)
    rw [hresult]
    exact ⟨⟨-t, by ring⟩, by omega, by omega⟩
  · obtain ⟨t, hresult, hfloor, hceil⟩ := exists_reduce32_multiple (by omega) hhi
    obtain rfl : t = 256 := by omega
    rw [hresult]
    exact ⟨rfl, by omega, by omega, by omega⟩
  · rw [caddq_toInt hlo hhi]
    split <;> exact ⟨by omega, fun _ _ => by omega, fun _ => by omega⟩

end Sys2Proof.Machine

/-! # Rounding and hints (O29, O32, O33)

O29 is read off one equation for each formula, as O28 is. The properties (R128 to R130) are about the exact integers. For
`decompose` they turn on the rounded quotient c of a by 2·GAMMA2 before its low four bits are taken: c is at most 16, and 16 is
the boundary bucket, where a1 wraps to 0 and the low part is a - Q. -/

namespace Sys2Proof.Machine

open Spec (q low word roundHigh roundLow bucket offset hintBit hinted)

/-! ## The commands' formulas (R120 to R127) -/

theorem p2rHigh_eq_ediv (a : Int) : p2rHigh a = (a + 4095) / 8192 := sar_eq_ediv _ _

theorem power2round_eq (a : Int) : power2round a = (low32 ((a + 4095) / 8192), low32 (a - (a + 4095) / 8192 * 8192)) := by
  rw [power2round, p2rHigh_eq_ediv]

theorem decomposeHigh_eq_bucket (a : Int) : decomposeHigh a = bucket a := by
  rw [decomposeHigh, sar_eq_ediv, sar_eq_ediv]
  rfl

theorem low_decomposeLow (a : Int) : low (decomposeLow a) = offset a := by
  rw [decomposeLow, decomposeHigh_eq_bucket, mul_assoc]
  rfl

theorem decompose_snd_toInt (a : Int) : (decompose a).2.toInt = offset a := (low32_toInt _).trans (low_decomposeLow a)

theorem decompose_eq_word (a : Int) : decompose a = (word (bucket a), word (offset a)) := by
  rw [← low_decomposeLow, word_low, ← decomposeHigh_eq_bucket]
  rfl

theorem word_hintBit (a0 a1 : Int) : word (hintBit a0 a1) = makeHint a0 a1 := apply_ite word _ _ _

/-- The words distinguish hints as their numbers do, and the test on the low part reads `offset`. -/
theorem word_hinted (a : Int) (h : Word) : word (hinted a h.toInt) = useHint a h := by
  have hzero : h.toInt = 0 ↔ h = 0 := BitVec.toInt_inj (y := 0)
  rw [useHint, decompose_snd_toInt, decompose_eq_word, decomposeHigh_eq_bucket]
  simp only [hinted, hzero, apply_ite word]
  rfl

/-- Settles O29: each command completes with its formula's words, on the latched arguments. -/
theorem roundingScalars : Obligations.RoundingScalars := by
  intro s v hlatch
  rw [roundHigh, roundLow, word_low, word_low, word_hintBit, word_hinted, ← State.argv_of_latch hlatch]
  refine ⟨?_, ?_, rfl, rfl⟩
  · change execSp2r s = _
    rw [execSp2r, power2round_eq]
    rfl
  · change execSdecomp s = _
    rw [execSdecomp, decompose_eq_word]
    rfl

/-! ## The power-of-two split (R128, R178) -/

/-- Both parts of a nonnegative 32-bit a are kept by the narrowing. -/
theorem power2round_toInt {a : Int} (hlo : 0 ≤ a) (hhi : a < 2147483648) :
    (power2round a).1.toInt = (a + 4095) / 8192 ∧ (power2round a).2.toInt = a - (a + 4095) / 8192 * 8192 := by
  rw [power2round_eq]
  exact ⟨low32_toInt_of_fits (by omega) (by omega), low32_toInt_of_fits (by omega) (by omega)⟩

/-- Settles O32: the high part is a over 2^13 rounded to nearest, half rounding down. -/
theorem powerOfTwoSplit : Obligations.PowerOfTwoSplit := by
  refine ⟨fun a hlo hhi => ?_, fun a1 hlo hhi => ?_⟩
  · obtain ⟨hhigh, hlow⟩ := power2round_toInt hlo (by omega)
    rw [hhigh, hlow]
    omega
  · obtain ⟨hhigh, hlow⟩ := power2round_toInt (a := a1 * 8192) (by omega) (by omega)
    rw [hhigh, hlow]
    omega

/-! ## The split by 2·GAMMA2 (R129, R130) -/

/-- On [0, Q) the quotient taken is a over 2·GAMMA2 rounded to nearest, half rounding down: 2^22 = 1025·4092 + 4 and
2·GAMMA2 = 128·4092, and the excess 4·c stays below 1025. -/
theorem exists_bucket_quotient {a : Int} (hlo : 0 ≤ a) (hhi : a < 8380417) :
    ∃ c : Int, 0 ≤ c ∧ c ≤ 16 ∧ bucket a = c % 16 ∧ -261888 < a - c * 523776 ∧ a - c * 523776 ≤ 261888 := by
  exact ⟨((a + 127) / 128 * 1025 + 2097152) / 4194304, by omega, by omega, rfl, by omega, by omega⟩

/-- `low` keeps an integer of the signed 32-bit range. -/
theorem low_of_fits {x : Int} (hlo : -2147483648 ≤ x) (hhi : x < 2147483648) : low x = x := Int.bmod_eq_of_le hlo hhi

/-- Below the boundary bucket `decompose` splits a exactly; in it the high part is 0 and the low part a - Q. -/
theorem bucket_offset_cases {a : Int} (hlo : 0 ≤ a) (hhi : a < 8380417) :
    (a < 8118529 ∧ 0 ≤ bucket a ∧ bucket a ≤ 15 ∧ offset a = a - bucket a * 523776 ∧ -261888 < offset a ∧ offset a ≤ 261888) ∨
    (8118529 ≤ a ∧ bucket a = 0 ∧ offset a = a - 8380417) := by
  obtain ⟨c, hc0, hc16, hbucket, habove, hbelow⟩ := exists_bucket_quotient hlo hhi
  by_cases hc : c = 16
  · have hzero : bucket a = 0 := by omega
    have hval : offset a = a - 8380417 := by
      rw [offset, hzero, if_pos (by omega), q, low_of_fits (by omega) (by omega)]
      omega
    exact .inr ⟨by omega, hzero, hval⟩
  · have hkept : bucket a = c := by omega
    have hval : offset a = a - c * 523776 := by
      rw [offset, hkept, if_neg (by omega), low_of_fits (by omega) (by omega)]
    rw [hval, hkept]
    exact .inl ⟨by omega, hc0, by omega, rfl, habove, hbelow⟩

theorem decompose_fst_toInt (a : Int) : (decompose a).1.toInt = bucket a := by
  rw [decompose_eq_word]
  exact low32_toInt_of_fits (by rw [bucket]; omega) (by rw [bucket]; omega)

/-- On [0, Q) `decompose` leaves nothing for a hint to correct (R130). -/
theorem makeHint_decompose {a : Int} (hlo : 0 ≤ a) (hhi : a < 8380417) : makeHint (offset a) (bucket a) = 0 := by
  have hsplit := bucket_offset_cases hlo hhi
  exact if_neg (show ¬(offset a > 261888 ∨ offset a < -261888 ∨ offset a = -261888 ∧ bucket a ≠ 0) by omega)

theorem useHint_zero (a : Int) : useHint a 0 = (decompose a).1 := if_pos rfl

/-- Settles O33: the two cases of `bucket_offset_cases`; bucket a1 holds the multiple a1 of 2·GAMMA2. -/
theorem bucketSplit : Obligations.BucketSplit := by
  refine ⟨fun a hlo hhi => ?_, fun a1 hlo hhi => ⟨a1 * 523776, by omega, by omega, ?_⟩⟩
  · simp only [decompose_fst_toInt, decompose_snd_toInt]
    have hsplit := bucket_offset_cases hlo hhi
    have hhint := makeHint_decompose hlo hhi
    exact ⟨by omega, by omega, by omega, by omega, by omega, by omega, by omega, hhint, by rw [hhint, useHint_zero]⟩
  · obtain ⟨c, hc0, hc16, hbucket, habove, hbelow⟩ := exists_bucket_quotient (a := a1 * 523776) (by omega) (by omega)
    rw [decompose_fst_toInt, hbucket]
    omega

end Sys2Proof.Machine

/-! # The transforms (O40 to O44)

A level of a transform is 128 butterflies on disjoint pairs: `IsLevel` says what one leaves in both slots of each pair. The model's
block form and the statements' in-place loops are both levels with the same butterflies (O41), the bounds and the evaluation follow
level by level (O42, O43), and the round trip undoes the forward levels one at a time (O44). -/

namespace Sys2Proof.Machine

open Spec (low mont word zetaOf)

/-! ## The zeta table (R140, R141) -/

theorem zeta_eq_zetaOf : ∀ k ∈ List.range 256, k ≠ 0 → zeta k = zetaOf k := by decide +kernel

/-- Settles O40: a finite table, compared entry by entry. -/
theorem zetaTable : Obligations.ZetaTable :=
  ⟨rfl, zeta_eq_zetaOf, by decide +kernel, by decide, rfl, by decide⟩

/-- A zeta is a centered representative. -/
theorem abs_zetaOf_le (k : Nat) : |zetaOf k| ≤ 4190208 := by
  have hlo : -4190208 ≤ zetaOf k := Int.le_bmod (m := 8380417) (by decide)
  have hhi : zetaOf k < 4190209 := Int.bmod_lt (m := 8380417) (by decide)
  exact abs_le.mpr ⟨hlo, by omega⟩

/-! ## Words as integers -/

/-- Entry i of a list of coefficients, as a signed integer (R13, R20). -/
def signedAt (a : List Word) (i : Nat) : Int := (a.getD i 0).toInt

theorem abs_toInt_le (x : Word) : |x.toInt| ≤ 2147483648 :=
  abs_le.mpr ⟨BitVec.le_toInt x, (BitVec.toInt_lt (x := x)).le⟩

theorem abs_signedAt_le (a : List Word) (i : Nat) : |signedAt a i| ≤ 2147483648 := abs_toInt_le _

theorem addWord_toInt (x t : Word) : (addWord x t).toInt = low (x.toInt + t.toInt) := low32_toInt _

theorem subWord_toInt (x t : Word) : (subWord x t).toInt = low (x.toInt - t.toInt) := low32_toInt _

theorem montgomeryReduce_toInt (a : Int) : (montgomeryReduce a).toInt = mont a := by
  rw [← word_mont, word, mont, low, BitVec.toInt_ofInt]
  exact Int.bmod_bmod

theorem scaleMont_toInt (z : Int) (x : Word) : (scaleMont z x).toInt = mont (z * x.toInt) := montgomeryReduce_toInt _

/-! ## A Montgomery product of a constant and a coefficient (R106) -/

section

variable {z y : Int}

theorem mul_mem_mont_range (hz : |z| ≤ 4190208) (hy : |y| ≤ 2147483648) :
    -(2147483648 * 8380417) ≤ z * y ∧ z * y < 2147483648 * 8380417 := by
  have hprod : |z * y| ≤ 4190208 * 2147483648 := by
    rw [abs_mul]
    exact mul_le_mul hz hy (abs_nonneg y) (by decide)
  have hboth := abs_le.mp hprod
  omega

theorem dvd_mont_sub (hz : |z| ≤ 4190208) (hy : |y| ≤ 2147483648) : 8380417 ∣ mont (z * y) * 4294967296 - z * y := by
  obtain ⟨hlo, hhi⟩ := mul_mem_mont_range hz hy
  rw [← montgomeryReduce_toInt]
  exact (montgomeryReduces.1 _ hlo hhi).1

theorem abs_mont_lt (hz : |z| ≤ 4190208) (hy : |y| ≤ 2147483648) : |mont (z * y)| < 8380417 := by
  obtain ⟨hlo, hhi⟩ := mul_mem_mont_range hz hy
  rw [← montgomeryReduce_toInt]
  exact abs_lt.mpr (montgomeryReduces.1 _ hlo hhi).2

end

/-! ## Levels of butterflies -/

/-- The upper output of a forward butterfly (R142). -/
def fwdUpper (z x y : Int) : Int := low (x + mont (z * y))

/-- The lower output of a forward butterfly (R142). -/
def fwdLower (z x y : Int) : Int := low (x - mont (z * y))

/-- The upper output of an inverse butterfly (R144). -/
def invUpper (x y : Int) : Int := low (x + y)

/-- The lower output of an inverse butterfly (R144). -/
def invLower (z x y : Int) : Int := mont (z * low (x - y))

/-- w is v after n blocks of len butterflies: the pair at distance len that starts at 2·len·b + d takes f b and g b of its entries. -/
def IsLevel (f g : Nat → Int → Int → Int) (len n : Nat) (v w : Nat → Int) : Prop :=
  ∀ b < n, ∀ d < len,
    w (2 * len * b + d) = f b (v (2 * len * b + d)) (v (2 * len * b + d + len)) ∧
    w (2 * len * b + d + len) = g b (v (2 * len * b + d)) (v (2 * len * b + d + len))

section

variable {len n b d i : Nat} {f g f' g' : Nat → Int → Int → Int} {v w w' : Nat → Int} {a : List Word}

theorem butterfly_lt (hb : b < n) (hd : d < len) : 2 * len * b + d + len < 2 * len * n := by
  have hblock : 2 * len * (b + 1) ≤ 2 * len * n := Nat.mul_le_mul_left _ hb
  rw [Nat.mul_succ] at hblock
  omega

/-- Every entry is in a butterfly. -/
theorem exists_butterfly (hi : i < 2 * len * n) :
    ∃ b < n, ∃ d < len, i = 2 * len * b + d ∨ i = 2 * len * b + d + len := by
  have hlen : 0 < 2 * len := Nat.pos_of_ne_zero fun h => by simp [h] at hi
  have hmod : i % (2 * len) < 2 * len := Nat.mod_lt _ hlen
  have hdiv := Nat.div_add_mod i (2 * len)
  refine ⟨i / (2 * len), Nat.div_lt_of_lt_mul hi, ?_⟩
  by_cases hup : i % (2 * len) < len
  · exact ⟨i % (2 * len), hup, .inl hdiv.symm⟩
  · exact ⟨i % (2 * len) - len, by omega, .inr (by omega)⟩

theorem IsLevel.congr (h : IsLevel f g len n v w) (hf : ∀ b < n, f b = f' b) (hg : ∀ b < n, g b = g' b) :
    IsLevel f' g' len n v w := fun b hb d hd => hf b hb ▸ hg b hb ▸ h b hb d hd

/-- A level's butterflies say all of its outputs. -/
theorem IsLevel.unique (h : IsLevel f g len n v w) (h' : IsLevel f g len n v w') (hi : i < 2 * len * n) : w i = w' i := by
  obtain ⟨b, hb, d, hd, rfl | rfl⟩ := exists_butterfly hi
  · rw [(h b hb d hd).1, (h' b hb d hd).1]
  · rw [(h b hb d hd).2, (h' b hb d hd).2]

/-- A bound that holds of both outputs of every butterfly holds of every output. -/
theorem IsLevel.forall_output (h : IsLevel f g len n v w) {P : Int → Prop}
    (hf : ∀ b < n, ∀ d < len, P (f b (v (2 * len * b + d)) (v (2 * len * b + d + len))))
    (hg : ∀ b < n, ∀ d < len, P (g b (v (2 * len * b + d)) (v (2 * len * b + d + len)))) (hi : i < 2 * len * n) : P (w i) := by
  obtain ⟨b, hb, d, hd, rfl | rfl⟩ := exists_butterfly hi
  · exact (h b hb d hd).1 ▸ hf b hb d hd
  · exact (h b hb d hd).2 ▸ hg b hb d hd

/-! ## The model's levels (R142, R144) -/

theorem signedAt_drop (m : Nat) : signedAt (a.drop m) i = signedAt a (m + i) := by
  simp [signedAt, List.getD_eq_getElem?_getD, List.getElem?_drop]

/-- The two halves of a block, combined entry by entry, in front of the blocks that follow. -/
def blockAndRest (F G : Word → Word → Word) (len : Nat) (a rest : List Word) : List Word :=
  List.zipWith F (a.take len) ((a.drop len).take len) ++ List.zipWith G (a.take len) ((a.drop len).take len) ++ rest

theorem signedAt_blockAndRest {F G : Word → Word → Word} (rest : List Word) (ha : 2 * len ≤ a.length) (hd : d < len) :
    signedAt (blockAndRest F G len a rest) d = (F (a.getD d 0) (a.getD (d + len) 0)).toInt ∧
    signedAt (blockAndRest F G len a rest) (d + len) = (G (a.getD d 0) (a.getD (d + len) 0)).toInt := by
  have hfst (H : Word → Word → Word) : (List.zipWith H (a.take len) ((a.drop len).take len))[d]? =
      some (H (a.getD d 0) (a.getD (d + len) 0)) := by
    rw [Nat.add_comm d, List.getD_eq_getElem _ _ (show d < a.length by omega),
      List.getD_eq_getElem _ _ (show len + d < a.length by omega)]
    simp [List.getElem?_zipWith, hd, show d < a.length by omega, show len + d < a.length by omega]
  have hlen (H : Word → Word → Word) : (List.zipWith H (a.take len) ((a.drop len).take len)).length = len := by
    simp only [List.length_zipWith, List.length_take, List.length_drop]
    omega
  constructor
  · rw [signedAt, blockAndRest, List.append_assoc, List.getD_append _ _ _ _ ((hlen F).symm ▸ hd), List.getD_eq_getElem?_getD,
      hfst F]
    rfl
  · rw [signedAt, blockAndRest, List.append_assoc, List.getD_append_right _ _ _ _ (by rw [hlen F]; omega), hlen F,
      Nat.add_sub_cancel, List.getD_append _ _ _ _ ((hlen G).symm ▸ hd), List.getD_eq_getElem?_getD, hfst G]
    rfl

theorem signedAt_blockAndRest_rest {F G : Word → Word → Word} (rest : List Word) (ha : 2 * len ≤ a.length) :
    signedAt (blockAndRest F G len a rest) (2 * len + i) = signedAt rest i := by
  have hlen : (blockAndRest F G len a []).length = 2 * len := by
    simp only [blockAndRest, List.length_append, List.length_zipWith, List.length_take, List.length_drop, List.length_nil]
    omega
  have happ : blockAndRest F G len a rest = blockAndRest F G len a [] ++ rest := by simp [blockAndRest]
  rw [signedAt, signedAt, happ, List.getD_append_right _ _ _ _ (by omega), hlen, Nat.add_sub_cancel_left]

/-- A block in front of a level is a level of one block more. -/
theorem IsLevel.blockAndRest {F G : Word → Word → Word} {rest : List Word} (ha : 2 * len ≤ a.length)
    (hF : ∀ x y, (F x y).toInt = f 0 x.toInt y.toInt) (hG : ∀ x y, (G x y).toInt = g 0 x.toInt y.toInt)
    (h : IsLevel (fun b => f (b + 1)) (fun b => g (b + 1)) len n (signedAt (a.drop (2 * len))) (signedAt rest)) :
    IsLevel f g len (n + 1) (signedAt a) (signedAt (blockAndRest F G len a rest)) := by
  intro b hb d hd
  cases b with
  | zero =>
    obtain ⟨hup, hlow⟩ := signedAt_blockAndRest (F := F) (G := G) rest ha hd
    rw [Nat.mul_zero, Nat.zero_add]
    exact ⟨hup.trans (hF _ _), hlow.trans (hG _ _)⟩
  | succ b =>
    have hshift (e : Nat) : 2 * len * (b + 1) + e = 2 * len + (2 * len * b + e) := by rw [Nat.mul_succ]; omega
    have hnext := h b (Nat.lt_of_succ_lt_succ hb) d hd
    simpa only [Nat.add_assoc, hshift, signedAt_drop, signedAt_blockAndRest_rest rest ha] using hnext

theorem nttLevel_isLevel {k : Nat} (ha : a.length = 2 * len * n) :
    IsLevel (fun b => fwdUpper (zeta (k + b))) (fun b => fwdLower (zeta (k + b))) len n (signedAt a)
      (signedAt (nttLevel len n k a)) := by
  induction n generalizing k a with
  | zero => exact fun b hb => absurd hb (Nat.not_lt_zero b)
  | succ n ih =>
    rw [Nat.mul_succ] at ha
    have hrest := ih (k := k + 1) (a := a.drop (2 * len)) (by rw [List.length_drop]; omega)
    simp only [Nat.add_assoc, Nat.add_comm 1] at hrest
    simp only [nttLevel, List.zipWith_map_right]
    refine IsLevel.blockAndRest (by omega) (fun x y => ?_) (fun x y => ?_) hrest
    · rw [addWord_toInt, scaleMont_toInt]; rfl
    · rw [subWord_toInt, scaleMont_toInt]; rfl

theorem invNttLevel_isLevel {k : Nat} (ha : a.length = 2 * len * n) :
    IsLevel (fun _ => invUpper) (fun b => invLower (-zeta (k - b))) len n (signedAt a)
      (signedAt (invNttLevel len n k a)) := by
  induction n generalizing k a with
  | zero => exact fun b hb => absurd hb (Nat.not_lt_zero b)
  | succ n ih =>
    rw [Nat.mul_succ] at ha
    have hrest := ih (k := k - 1) (a := a.drop (2 * len)) (by rw [List.length_drop]; omega)
    simp only [Nat.sub_sub, Nat.add_comm 1] at hrest
    simp only [invNttLevel, List.map_zipWith]
    refine IsLevel.blockAndRest (by omega) addWord_toInt (fun x y => ?_) hrest
    rw [scaleMont_toInt, subWord_toInt]; rfl

end

/-! ## The stages of the transforms -/

/-- The first l levels of `ntt` (R142): level l has 2^l blocks of half-length 2^(7-l). -/
def nttStage (a : List Word) : Nat → List Word
  | 0 => a
  | l + 1 => nttLevel (2 ^ (7 - l)) (2 ^ l) (2 ^ l) (nttStage a l)

/-- The first m levels of `invntt_tomont` (R144): level m has 2^(7-m) blocks of half-length 2^m. -/
def invStage (a : List Word) : Nat → List Word
  | 0 => a
  | m + 1 => invNttLevel (2 ^ m) (2 ^ (7 - m)) (2 ^ (8 - m) - 1) (invStage a m)

theorem nttCoeffs_eq_stage (a : List Word) : nttCoeffs a = nttStage a 8 := by
  simp [nttCoeffs, nttLens, nttStage]

theorem invNttCoeffs_eq_stage (a : List Word) : invNttCoeffs a = (invStage a 8).map (scaleMont invScale) := by
  simp [invNttCoeffs, nttLens, invStage]

section

variable {a : List Word} {l m : Nat}

theorem level_size : ∀ l < 8, 2 * 2 ^ (7 - l) * 2 ^ l = 256 := by decide

theorem invLevel_size : ∀ m < 8, 2 * 2 ^ m * 2 ^ (7 - m) = 256 := by decide

theorem nttStage_length (ha : a.length = 256) (hl : l ≤ 8) : (nttStage a l).length = 256 := by
  induction l with
  | zero => exact ha
  | succ l ih =>
    have hprev := ih (by omega)
    rw [nttStage, nttLevel_length _ _ _ _ (hprev.trans (level_size l (by omega)).symm), hprev]

theorem invStage_length (ha : a.length = 256) (hm : m ≤ 8) : (invStage a m).length = 256 := by
  induction m with
  | zero => exact ha
  | succ m ih =>
    have hprev := ih (by omega)
    rw [invStage, invNttLevel_length _ _ _ _ (hprev.trans (invLevel_size m (by omega)).symm), hprev]

/-- The zetas of a level's blocks are entries 1 to 255 of the table. -/
theorem zeta_of_level (hl : l < 8) {b : Nat} (hb : b < 2 ^ l) : zeta (2 ^ l + b) = zetaOf (2 ^ l + b) := by
  have hpos : 0 < 2 ^ l := Nat.two_pow_pos l
  have hpow : 2 ^ l ≤ 2 ^ 7 := Nat.pow_le_pow_right (by decide) (by omega)
  exact zeta_eq_zetaOf _ (List.mem_range.mpr (by omega)) (by omega)

theorem zeta_of_invLevel (hm : m < 8) {b : Nat} (hb : b < 2 ^ (7 - m)) :
    zeta (2 ^ (8 - m) - 1 - b) = zetaOf (2 ^ (8 - m) - 1 - b) := by
  have hpow : 2 ^ (8 - m) ≤ 2 ^ 8 := Nat.pow_le_pow_right (by decide) (by omega)
  have hdouble : 2 ^ (8 - m) = 2 ^ (7 - m) * 2 := by rw [← Nat.pow_succ]; congr 1; omega
  exact zeta_eq_zetaOf _ (List.mem_range.mpr (by omega)) (by omega)

theorem nttStage_isLevel (ha : a.length = 256) (hl : l < 8) :
    IsLevel (fun b => fwdUpper (zetaOf (2 ^ l + b))) (fun b => fwdLower (zetaOf (2 ^ l + b))) (2 ^ (7 - l)) (2 ^ l)
      (signedAt (nttStage a l)) (signedAt (nttStage a (l + 1))) :=
  (nttLevel_isLevel ((nttStage_length ha hl.le).trans (level_size l hl).symm)).congr
    (fun _ hb => by rw [zeta_of_level hl hb]) (fun _ hb => by rw [zeta_of_level hl hb])

theorem invStage_isLevel (ha : a.length = 256) (hm : m < 8) :
    IsLevel (fun _ => invUpper) (fun b => invLower (-zetaOf (2 ^ (8 - m) - 1 - b))) (2 ^ m) (2 ^ (7 - m))
      (signedAt (invStage a m)) (signedAt (invStage a (m + 1))) :=
  (invNttLevel_isLevel ((invStage_length ha hm.le).trans (invLevel_size m hm).symm)).congr
    (fun _ _ => rfl) (fun _ hb => by rw [zeta_of_invLevel hm hb])

theorem signedAt_invNttCoeffs (ha : a.length = 256) {i : Nat} (hi : i < 256) :
    signedAt (invNttCoeffs a) i = mont (41978 * signedAt (invStage a 8) i) := by
  have hlen : i < (invStage a 8).length := by rw [invStage_length ha le_rfl]; exact hi
  rw [signedAt, signedAt, invNttCoeffs_eq_stage, List.getD_eq_getElem _ _ (by simpa using hlen), List.getElem_map,
    scaleMont_toInt, List.getD_eq_getElem _ _ hlen]
  rfl

end

theorem ntt_coeff (p : Poly) (i : Nat) : (ntt p).coeff i = signedAt (nttCoeffs p.coeffs) i := rfl

theorem invNtt_coeff (p : Poly) (i : Nat) : (invNtt p).coeff i = signedAt (invNttCoeffs p.coeffs) i := by
  rw [Poly.coeff, invNtt, signedAt]

end Sys2Proof.Machine

/-! # The transform commands (O41)

The statements' loops change one pair at a time in place: the pairs of a level are apart, so a level of the loops is a level of
butterflies, the one the model computes block by block. -/

namespace Sys2Proof.Machine

open Spec (low mont zetaOf entry coeffsOf butterfly invButterfly nttLoop invNttLoop)

/-! ## In-place loops over disjoint pairs (R142, R144) -/

/-- One pair in place: a[j] takes f and a[j + len] takes g of what both held. -/
def pairStep (f g : Int → Int → Int) (len j : Nat) (a : List Int) : List Int :=
  (a.set j (f (a.getD j 0) (a.getD (j + len) 0))).set (j + len) (g (a.getD j 0) (a.getD (j + len) 0))

/-- The loop over j = s + d of a block's m first pairs. -/
def pairLoop (f g : Int → Int → Int) (len s m : Nat) (a : List Int) : List Int :=
  (List.range m).foldl (fun a d => pairStep f g len (s + d) a) a

/-- The loop over the n first blocks of a level. -/
def levelLoop (f g : Nat → Int → Int → Int) (len n : Nat) (a : List Int) : List Int :=
  (List.range n).foldl (fun a b => pairLoop (f b) (g b) len (2 * len * b) len a) a

section

variable {len s m n b d i j : Nat} {a : List Int}

theorem getD_set (a : List Int) (i j : Nat) (x : Int) (hi : i < a.length) :
    (a.set i x).getD j 0 = if j = i then x else a.getD j 0 := by
  rw [List.getD_eq_getElem?_getD, List.getElem?_set, List.getD_eq_getElem?_getD]
  by_cases h : j = i
  · simp [h, hi]
  · simp [h, Ne.symm h]

@[simp] theorem pairStep_length (f g : Int → Int → Int) (len j : Nat) (a : List Int) :
    (pairStep f g len j a).length = a.length := by
  simp [pairStep]

theorem pairLoop_succ (f g : Int → Int → Int) (len s m : Nat) (a : List Int) :
    pairLoop f g len s (m + 1) a = pairStep f g len (s + m) (pairLoop f g len s m a) := by
  simp [pairLoop, List.range_succ]

theorem levelLoop_succ (f g : Nat → Int → Int → Int) (len n : Nat) (a : List Int) :
    levelLoop f g len (n + 1) a = pairLoop (f n) (g n) len (2 * len * n) len (levelLoop f g len n a) := by
  simp [levelLoop, List.range_succ]

@[simp] theorem pairLoop_length (f g : Int → Int → Int) (len s m : Nat) (a : List Int) :
    (pairLoop f g len s m a).length = a.length := by
  induction m with
  | zero => rfl
  | succ m ih => rw [pairLoop_succ, pairStep_length, ih]

@[simp] theorem levelLoop_length (f g : Nat → Int → Int → Int) (len n : Nat) (a : List Int) :
    (levelLoop f g len n a).length = a.length := by
  induction n with
  | zero => rfl
  | succ n ih => rw [levelLoop_succ, pairLoop_length, ih]

theorem pairStep_getD (f g : Int → Int → Int) (hlen : 0 < len) (ha : j + len < a.length) (i : Nat) :
    (pairStep f g len j a).getD i 0 = if i = j + len then g (a.getD j 0) (a.getD (j + len) 0) else
      if i = j then f (a.getD j 0) (a.getD (j + len) 0) else a.getD i 0 := by
  rw [pairStep, getD_set _ _ _ _ (by rw [List.length_set]; exact ha), getD_set _ _ _ _ (by omega)]

/-- A loop over pairs leaves every other entry alone. -/
theorem pairLoop_apart (f g : Int → Int → Int) (hlen : 0 < len) (ha : s + m + len ≤ a.length)
    (hi : ∀ d < m, i ≠ s + d ∧ i ≠ s + d + len) : (pairLoop f g len s m a).getD i 0 = a.getD i 0 := by
  induction m with
  | zero => rfl
  | succ m ih =>
    obtain ⟨hup, hlow⟩ := hi m (Nat.lt_succ_self m)
    rw [pairLoop_succ, pairStep_getD f g hlen (by rw [pairLoop_length]; omega), if_neg hlow, if_neg hup]
    exact ih (by omega) fun d hd => hi d (Nat.lt_succ_of_lt hd)

/-- Each pair of a loop takes f and g of what it held at first. -/
theorem pairLoop_pair (f g : Int → Int → Int) (hm : m ≤ len) (ha : s + m + len ≤ a.length) (hd : d < m) :
    (pairLoop f g len s m a).getD (s + d) 0 = f (a.getD (s + d) 0) (a.getD (s + d + len) 0) ∧
    (pairLoop f g len s m a).getD (s + d + len) 0 = g (a.getD (s + d) 0) (a.getD (s + d + len) 0) := by
  induction m with
  | zero => exact absurd hd (Nat.not_lt_zero d)
  | succ m ih =>
    have hstep := pairStep_getD f g (len := len) (j := s + m) (a := pairLoop f g len s m a) (by omega)
      (by rw [pairLoop_length]; omega)
    rw [pairLoop_succ, hstep, hstep]
    obtain hlt | rfl := Nat.lt_succ_iff_lt_or_eq.mp hd
    · rw [if_neg (by omega), if_neg (by omega), if_neg (by omega), if_neg (by omega)]
      exact ih (by omega) (by omega) hlt
    · rw [if_neg (by omega), if_pos rfl, if_pos rfl,
        pairLoop_apart f g (by omega) (by omega) (i := s + d) (fun e he => by omega),
        pairLoop_apart f g (by omega) (by omega) (i := s + d + len) (fun e he => by omega)]
      exact ⟨rfl, rfl⟩

theorem levelLoop_apart (f g : Nat → Int → Int → Int) (hlen : 0 < len) (ha : 2 * len * n ≤ a.length) (hi : 2 * len * n ≤ i) :
    (levelLoop f g len n a).getD i 0 = a.getD i 0 := by
  induction n with
  | zero => rfl
  | succ n ih =>
    rw [Nat.mul_succ] at ha hi
    rw [levelLoop_succ, pairLoop_apart _ _ hlen (by rw [levelLoop_length]; omega) (fun d hd => by omega)]
    exact ih (by omega) (by omega)

/-- The loops of a level leave a level of butterflies. -/
theorem levelLoop_isLevel (f g : Nat → Int → Int → Int) (hlen : 0 < len) (ha : 2 * len * n ≤ a.length) :
    IsLevel f g len n (a.getD · 0) ((levelLoop f g len n a).getD · 0) := by
  induction n with
  | zero => exact fun b hb => absurd hb (Nat.not_lt_zero b)
  | succ n ih =>
    rw [Nat.mul_succ] at ha
    intro b hb d hd
    have hlast : 2 * len * n + len + len ≤ (levelLoop f g len n a).length := by rw [levelLoop_length]; omega
    rw [levelLoop_succ]
    beta_reduce
    obtain hlt | rfl := Nat.lt_succ_iff_lt_or_eq.mp hb
    · have hbelow := butterfly_lt hlt hd
      rw [pairLoop_apart _ _ hlen hlast (i := 2 * len * b + d) (fun e he => by omega),
        pairLoop_apart _ _ hlen hlast (i := 2 * len * b + d + len) (fun e he => by omega)]
      exact ih (by omega) b hlt d hd
    · have hpair := pairLoop_pair (f b) (g b) le_rfl hlast hd
      rwa [levelLoop_apart f g hlen (by omega) (i := 2 * len * b + d) (by omega),
        levelLoop_apart f g hlen (by omega) (i := 2 * len * b + d + len) (by omega)] at hpair

/-- A counter that goes along with a loop is a function of the turn. -/
theorem foldl_with_counter {β : Type} (c : Nat → Nat) (k : Nat → Nat) (hk : ∀ b, c (k b) = k (b + 1)) (h : Nat → Nat → β → β)
    (n : Nat) (x : β) : (List.range n).foldl (fun st b => (c st.1, h (c st.1) b st.2)) (k 0, x) =
      (k n, (List.range n).foldl (fun x b => h (k (b + 1)) b x) x) := by
  induction n with
  | zero => rfl
  | succ n ih => simp [List.range_succ, ih, hk]

end

/-! ## The statements' loops, level by level -/

theorem butterfly_eq_pairStep {z : Int} {len j : Nat} (hlen : 0 < len) (a : List Int) :
    butterfly z len j a = pairStep (fwdUpper z) (fwdLower z) len j a :=
  List.set_comm _ _ (by omega)

theorem invButterfly_eq_pairStep (z : Int) (len j : Nat) (a : List Int) :
    invButterfly z len j a = pairStep invUpper (invLower z) len j a := rfl

/-- The coefficients as integers. -/
def ints (a : List Word) : List Int := a.map BitVec.toInt

@[simp] theorem ints_length (a : List Word) : (ints a).length = a.length := List.length_map _

theorem ints_getD (a : List Word) (i : Nat) : (ints a).getD i 0 = signedAt a i :=
  List.getD_map (d := (0 : Word)) a BitVec.toInt

/-- Levels of the loops and of the model with the same butterflies agree. -/
theorem levelLoop_ints {f g : Nat → Int → Int → Int} {len n : Nat} {a c : List Word} (hlen : 0 < len)
    (hsize : 2 * len * n = 256) (ha : a.length = 256) (hc : c.length = 256) (h : IsLevel f g len n (signedAt a) (signedAt c)) :
    levelLoop f g len n (ints a) = ints c := by
  have hloop := levelLoop_isLevel f g (n := n) (a := ints a) hlen (by rw [ints_length]; omega)
  simp only [ints_getD] at hloop
  refine List.ext_getElem (by simp [ha, hc]) fun i hi hi' => ?_
  rw [← List.getD_eq_getElem _ 0 hi, ← List.getD_eq_getElem _ 0 hi', ints_getD]
  exact hloop.unique h (by rw [levelLoop_length, ints_length] at hi; omega)

/-- One turn of the loop over len of `ntt` (R142). -/
def nttLoopLevel (st : Nat × List Int) (len : Nat) : Nat × List Int :=
  (List.range (128 / len)).foldl (fun st b =>
    (st.1 + 1, (List.range len).foldl (fun a d => butterfly (zetaOf (st.1 + 1)) len (2 * len * b + d) a) st.2)) st

/-- One turn of the loop over len of `invntt_tomont` (R144). -/
def invNttLoopLevel (st : Nat × List Int) (len : Nat) : Nat × List Int :=
  (List.range (128 / len)).foldl (fun st b =>
    (st.1 - 1, (List.range len).foldl (fun a d => invButterfly (-zetaOf (st.1 - 1)) len (2 * len * b + d) a) st.2)) st

theorem nttLoop_eq_foldl (a : List Int) :
    nttLoop a = ((List.range 8).foldl (fun st l => nttLoopLevel st (2 ^ (7 - l))) (0, a)).2 := rfl

theorem invNttLoop_eq_foldl (a : List Int) : invNttLoop a =
    ((List.range 8).foldl (fun st m => invNttLoopLevel st (2 ^ m)) (256, a)).2.map fun x => mont (41978 * x) := rfl

theorem nttLoopLevel_eq_levelLoop {len k : Nat} (hlen : 0 < len) (a : List Int) : nttLoopLevel (k, a) len =
    (k + 128 / len, levelLoop (fun b => fwdUpper (zetaOf (k + 1 + b))) (fun b => fwdLower (zetaOf (k + 1 + b))) len (128 / len) a) := by
  have hcount := foldl_with_counter (· + 1) (k + ·) (fun b => Nat.add_assoc k b 1)
    (fun k b a => pairLoop (fwdUpper (zetaOf k)) (fwdLower (zetaOf k)) len (2 * len * b) len a) (128 / len) a
  simpa only [nttLoopLevel, levelLoop, pairLoop, butterfly_eq_pairStep hlen, Nat.add_assoc, Nat.add_comm 1, Nat.add_zero] using hcount

theorem invNttLoopLevel_eq_levelLoop (len k : Nat) (a : List Int) : invNttLoopLevel (k, a) len =
    (k - 128 / len, levelLoop (fun _ => invUpper) (fun b => invLower (-zetaOf (k - 1 - b))) len (128 / len) a) := by
  have hcount := foldl_with_counter (· - 1) (k - ·) (fun b => Nat.sub_sub k b 1)
    (fun k b a => pairLoop invUpper (invLower (-zetaOf k)) len (2 * len * b) len a) (128 / len) a
  simpa only [invNttLoopLevel, levelLoop, pairLoop, invButterfly_eq_pairStep, Nat.sub_sub, Nat.add_comm 1, Nat.sub_zero] using hcount

section

variable {a : List Word}

/-- After l levels the loops hold what the model holds, and the counter stands at 2^l - 1. -/
theorem nttLoop_stage (ha : a.length = 256) {l : Nat} (hl : l ≤ 8) :
    (List.range l).foldl (fun st l => nttLoopLevel st (2 ^ (7 - l))) (0, ints a) = (2 ^ l - 1, ints (nttStage a l)) := by
  induction l with
  | zero => rfl
  | succ l ih =>
    have hpos : 0 < 2 ^ l := Nat.two_pow_pos l
    have hblocks : 128 / 2 ^ (7 - l) = 2 ^ l := Nat.div_eq_of_eq_mul_right (Nat.two_pow_pos _) (by
      have hsize := level_size l (by omega)
      rw [Nat.mul_assoc] at hsize
      omega)
    rw [List.range_succ, List.foldl_concat, ih (by omega), nttLoopLevel_eq_levelLoop (Nat.two_pow_pos _), hblocks,
      Nat.sub_add_cancel hpos, levelLoop_ints (Nat.two_pow_pos _) (level_size l (by omega)) (nttStage_length ha (by omega))
        (nttStage_length ha hl) (nttStage_isLevel ha (by omega)), Nat.pow_succ]
    congr 1
    omega

theorem nttLoop_ints (ha : a.length = 256) : nttLoop (ints a) = ints (nttCoeffs a) := by
  rw [nttLoop_eq_foldl, nttLoop_stage ha le_rfl, nttCoeffs_eq_stage]

/-- After m levels the loops hold what the model holds, and the counter stands at 2^(8-m). -/
theorem invNttLoop_stage (ha : a.length = 256) {m : Nat} (hm : m ≤ 8) :
    (List.range m).foldl (fun st m => invNttLoopLevel st (2 ^ m)) (256, ints a) = (2 ^ (8 - m), ints (invStage a m)) := by
  induction m with
  | zero => rfl
  | succ m ih =>
    have hhalf : 2 ^ (8 - m) = 2 ^ (7 - m) * 2 := by rw [← Nat.pow_succ]; congr 1; omega
    have hblocks : 128 / 2 ^ m = 2 ^ (7 - m) := Nat.div_eq_of_eq_mul_right (Nat.two_pow_pos _) (by
      have hsize := invLevel_size m (by omega)
      rw [Nat.mul_assoc] at hsize
      omega)
    rw [List.range_succ, List.foldl_concat, ih (by omega), invNttLoopLevel_eq_levelLoop, hblocks,
      levelLoop_ints (Nat.two_pow_pos _) (invLevel_size m (by omega)) (invStage_length ha (by omega))
        (invStage_length ha hm) (invStage_isLevel ha (by omega)), show 8 - (m + 1) = 7 - m by omega]
    congr 1
    omega

theorem invNttLoop_ints (ha : a.length = 256) : invNttLoop (ints a) = ints (invNttCoeffs a) := by
  rw [invNttLoop_eq_foldl, invNttLoop_stage ha le_rfl, invNttCoeffs_eq_stage, ints, ints, List.map_map, List.map_map]
  exact List.map_congr_left fun x _ => (scaleMont_toInt _ x).symm

end

/-! ## A lifted command on written sources (R160) -/

section

open Spec (SlotsHold SlotsFit SameOrApart WritesSlots)

variable {s : State} {i : Instr} {rd ra n : Nat} {as : List Poly} {f : Poly → Poly}

theorem getRange_of_slotsHold (hlen : as.length = n) (hold : SlotsHold s ra as) : s.pm.getRange ra n = some as := by
  obtain ⟨hwf, hslots⟩ := hold
  exact (Sparse.getRange_eq_some_iff hwf.1).mpr ⟨hlen, fun k hk => hslots k (hlen ▸ hk)⟩

/-- A destination and a source pass the checks where both fit and they are the same range or apart (R301, R304). -/
theorem validate_dstSrc (hd : SlotsFit s rd n) (ha : SlotsFit s ra n) (hplace : SameOrApart rd ra n) :
    validate s.params (dstSrc rd ra n) = none := by
  refine (validate_eq_none_iff _ _).mpr ⟨?_, by simp [dstSrc], ?_⟩
  · intro r hr
    obtain rfl | rfl : r = ⟨rd, n⟩ ∨ r = ⟨ra, n⟩ := by simpa [dstSrc] using hr
    · exact hd
    · exact ha
  · have hmeet : ¬(intersects ⟨rd, n⟩ ⟨ra, n⟩ = true ∧ (⟨rd, n⟩ : Range) ≠ ⟨ra, n⟩) := by
      rintro ⟨hinter, hne⟩
      obtain rfl | hapart := hplace
      · exact hne rfl
      · obtain ⟨hx, hy⟩ := (intersects_iff _ _).mp hinter
        simp only [Range.pair, Spec.Apart] at hx hy hapart
        omega
    simpa [overlapping, dstSrc, pairwiseDisjoint] using hmeet

/-- A one-source lift on written slots, in a legal place: it completes, and slot rd + k holds f of slot ra + k. -/
theorem lift1_writesSlots {val : Nat → Nat → Int} (hexec : exec i s = lift1 i rd ra n f s)
    (hops : operandsOf i s.params s.argv = dstSrc rd ra n) (hlen : as.length = n) (hold : SlotsHold s ra as)
    (hd : SlotsFit s rd n) (ha : SlotsFit s ra n) (hplace : SameOrApart rd ra n)
    (hval : ∀ p k, as[k]? = some p → ∀ j < 256, (f p).coeff j = val k j) : WritesSlots i s rd n 0 val := by
  refine ⟨(s.writeSlots rd (as.map f)).complete 0 0, as.map f, ?_, rfl, fun _ => rfl, by rw [List.length_map, hlen],
    Sparse.get_setRange s.pm rd (as.map f), fun k j hk hj => ?_⟩
  · rw [hexec, lift1, checked_of_valid (hops ▸ validate_dstSrc hd ha hplace), withSlots_of_some (getRange_of_slotsHold hlen hold)]
  · have hget : as[k]? = some as[k] := List.getElem?_eq_getElem (hlen ▸ hk)
    rw [entry, List.getElem?_map, hget]
    exact hval _ k hget j hj

end

theorem coeffsOf_eq_ints {as : List Poly} {k : Nat} {p : Poly} (hp : as[k]? = some p) : coeffsOf as k = ints p.coeffs := by
  refine List.ext_getElem (by simp [coeffsOf, p.size]) fun i hi hi' => ?_
  rw [← List.getD_eq_getElem _ 0 hi', ints_getD]
  simp [coeffsOf, entry, hp, Poly.coeff, signedAt]

/-- Settles O41: each transform is a lift, and slot by slot its loops and its levels agree. -/
theorem transformsAreTheLoops : Obligations.TransformsAreTheLoops := by
  intro s rd ra vl as hlen hold hd ha hplace
  refine ⟨lift1_writesSlots rfl rfl hlen hold hd ha hplace fun p k hp j _ => ?_,
    lift1_writesSlots rfl rfl hlen hold hd ha hplace fun p k hp j _ => ?_⟩
  · rw [coeffsOf_eq_ints hp, nttLoop_ints p.size, ints_getD, ntt_coeff]
  · rw [coeffsOf_eq_ints hp, invNttLoop_ints p.size, ints_getD, invNtt_coeff]

end Sys2Proof.Machine

/-! # What the transforms compute (O42, O43, O44)

In the growth contract no addition wraps, so that a level is its butterflies over the integers, and modulo Q a Montgomery product by
a zeta is a product by a power of ROOT. -/

namespace Sys2Proof.Machine

open Spec (low mont brv8 zetaOf)

/-! ## The forward transform's growth (R146, R149) -/

section

variable {a : List Word} {l : Nat} {B : Int}

theorem abs_mont_zetaOf_le (k : Nat) (i : Nat) (a : List Word) : |mont (zetaOf k * signedAt a i)| ≤ 8380416 :=
  Int.le_of_lt_add_one (abs_mont_lt (abs_zetaOf_le k) (abs_signedAt_le a i))

/-- A sum and a difference that stay in the signed 32-bit range are not narrowed. -/
theorem low_of_abs_le {x t : Int} (hx : |x| ≤ B) (ht : |t| ≤ 8380416) (hB : B + 8380416 < 2147483648) :
    low (x + t) = x + t ∧ low (x - t) = x - t := by
  have hx' := abs_le.mp hx
  have ht' := abs_le.mp ht
  exact ⟨low_of_fits (by omega) (by omega), low_of_fits (by omega) (by omega)⟩

/-- Where no addition of a level can wrap, its butterflies are exact. -/
theorem nttStage_isLevel_exact (ha : a.length = 256) (hl : l < 8) (hin : ∀ i < 256, |signedAt (nttStage a l) i| ≤ B)
    (hB : B + 8380416 < 2147483648) :
    IsLevel (fun b x y => x + mont (zetaOf (2 ^ l + b) * y)) (fun b x y => x - mont (zetaOf (2 ^ l + b) * y))
      (2 ^ (7 - l)) (2 ^ l) (signedAt (nttStage a l)) (signedAt (nttStage a (l + 1))) := by
  intro b hb d hd
  obtain ⟨hup, hlow⟩ := nttStage_isLevel ha hl b hb d hd
  have hlt := butterfly_lt hb hd
  rw [level_size l hl] at hlt
  have hexact := low_of_abs_le (hin (2 * 2 ^ (7 - l) * b + d) (by omega))
    (abs_mont_zetaOf_le (2 ^ l + b) (2 * 2 ^ (7 - l) * b + d + 2 ^ (7 - l)) (nttStage a l)) hB
  exact ⟨hup.trans hexact.1, hlow.trans hexact.2⟩

/-- Each level adds at most Q - 1 (R146). -/
theorem abs_nttStage_le (ha : a.length = 256) (hin : ∀ i < 256, |signedAt a i| ≤ B) (hB : B + 8 * 8380416 < 2147483648)
    (hl : l ≤ 8) : ∀ i < 256, |signedAt (nttStage a l) i| ≤ B + l * 8380416 := by
  induction l with
  | zero => simpa [nttStage] using hin
  | succ l ih =>
    have hprev := ih (by omega)
    have hlevel := nttStage_isLevel_exact ha (by omega) hprev (by omega)
    have hstep (b d : Nat) (hb : b < 2 ^ l) (hd : d < 2 ^ (7 - l)) :=
      hprev (2 * 2 ^ (7 - l) * b + d) (by have := butterfly_lt hb hd; rw [level_size l (by omega)] at this; omega)
    have hmont (b j : Nat) := abs_mont_zetaOf_le (2 ^ l + b) j (nttStage a l)
    intro i hi
    push_cast
    refine hlevel.forall_output (P := fun x => |x| ≤ B + (l + 1) * 8380416) (fun b hb d hd => ?_) (fun b hb d hd => ?_)
      (by rw [level_size l (by omega)]; exact hi)
    · exact (abs_add_le _ _).trans (by linarith [hstep b d hb hd, hmont b (2 * 2 ^ (7 - l) * b + d + 2 ^ (7 - l))])
    · exact (abs_sub _ _).trans (by linarith [hstep b d hb hd, hmont b (2 * 2 ^ (7 - l) * b + d + 2 ^ (7 - l))])

/-- In the growth contract of R146 every level is exact. -/
theorem nttStage_isLevel_of_bound (ha : a.length = 256) (hin : ∀ i < 256, |signedAt a i| ≤ B)
    (hB : B + 8 * 8380416 < 2147483648) (hl : l < 8) :
    IsLevel (fun b x y => x + mont (zetaOf (2 ^ l + b) * y)) (fun b x y => x - mont (zetaOf (2 ^ l + b) * y))
      (2 ^ (7 - l)) (2 ^ l) (signedAt (nttStage a l)) (signedAt (nttStage a (l + 1))) :=
  nttStage_isLevel_exact ha hl (abs_nttStage_le ha hin hB hl.le) (by omega)

end

/-- Settles O42: level by level forward; the inverse ends with a Montgomery product. -/
theorem transformBounds : Obligations.TransformBounds := by
  refine ⟨fun p b hin hb i hi => ?_, fun p i hi => ?_⟩
  · rw [ntt_coeff, nttCoeffs_eq_stage]
    exact abs_nttStage_le p.size hin hb le_rfl i hi
  · have hmont := abs_mont_lt (z := 41978) (by decide) (abs_signedAt_le (invStage p.coeffs 8) i)
    rw [invNtt_coeff, signedAt_invNttCoeffs p.size hi]
    exact abs_lt.mp hmont

/-! ## Residues modulo Q -/

/-- The residues modulo Q. -/
abbrev Residue := ZMod 8380417

theorem residue_eq_of_dvd {x y : Int} (h : 8380417 ∣ x - y) : (x : Residue) = y :=
  ((ZMod.intCast_eq_intCast_iff_dvd_sub y x 8380417).mpr h).symm

theorem dvd_of_residue_eq {x y : Int} (h : (x : Residue) = y) : 8380417 ∣ x - y :=
  (ZMod.intCast_eq_intCast_iff_dvd_sub y x 8380417).mp h.symm

/-- 2^32 is a unit modulo Q. -/
theorem two_pow_32_mul_inv : (4294967296 * 8265825 : Residue) = 1 := by
  exact_mod_cast residue_eq_of_dvd (x := 4294967296 * 8265825) (y := 1) (by decide)

/-- A Montgomery product by the constant 2^32·c is a product by c. -/
theorem residue_mont {z y : Int} {c : Residue} (hz : |z| ≤ 4190208) (hy : |y| ≤ 2147483648)
    (hc : (z : Residue) = 4294967296 * c) : (mont (z * y) : Residue) = c * y := by
  have hmul : (mont (z * y) : Residue) * 4294967296 = z * y := by
    exact_mod_cast residue_eq_of_dvd (dvd_mont_sub hz hy)
  rw [hc] at hmul
  linear_combination (8265825 : Residue) * hmul + (c * y - mont (z * y)) * two_pow_32_mul_inv

theorem residue_zetaOf (k : Nat) : (zetaOf k : Residue) = 4294967296 * 1753 ^ brv8 k := by
  have hmont : (4193792 : Residue) = 4294967296 := by
    exact_mod_cast residue_eq_of_dvd (x := 4193792) (y := 4294967296) (by decide)
  have hrep := residue_eq_of_dvd (x := zetaOf k) (y := 4193792 * 1753 ^ brv8 k) Int.dvd_bmod_sub_self
  rw [hrep]
  push_cast
  rw [hmont]

theorem residue_mont_zetaOf (k i : Nat) (a : List Word) :
    (mont (zetaOf k * signedAt a i) : Residue) = 1753 ^ brv8 k * signedAt a i :=
  residue_mont (abs_zetaOf_le k) (abs_signedAt_le a i) (residue_zetaOf k)

theorem root_pow_256 : (1753 : Residue) ^ 256 = -1 := by
  have h := residue_eq_of_dvd (x := 1753 ^ 256) (y := -1) (by norm_num)
  rw [Int.cast_pow] at h
  simpa using h

/-! ## The forward transform evaluates (R147) -/

/-- The value at x of the polynomial whose coefficients are block b of v, of length len. -/
def blockValue (v : Nat → Int) (len b : Nat) (x : Residue) : Residue :=
  ∑ d ∈ Finset.range len, (v (len * b + d) : Residue) * x ^ d

section

variable {v w : Nat → Int} {len n b : Nat} {x c : Residue}

theorem blockValue_double (v : Nat → Int) (len b : Nat) (x : Residue) :
    blockValue v (2 * len) b x =
      ∑ d ∈ Finset.range len, ((v (2 * len * b + d) : Residue) + x ^ len * v (2 * len * b + d + len)) * x ^ d := by
  rw [blockValue, two_mul, Finset.sum_range_add, ← Finset.sum_add_distrib]
  refine Finset.sum_congr rfl fun d _ => ?_
  rw [pow_add, show (len + len) * b + (len + d) = (len + len) * b + d + len by omega]
  ring

/-- A level splits X^(2·len) - c² into X^len - c and X^len + c: where x^len = c, the upper child of a block keeps its value at x. -/
theorem blockValue_upper (hv : ∀ d < len, (w (2 * len * b + d) : Residue) = v (2 * len * b + d) + c * v (2 * len * b + d + len))
    (hx : x ^ len = c) : blockValue w len (2 * b) x = blockValue v (2 * len) b x := by
  rw [blockValue_double, hx]
  refine Finset.sum_congr rfl fun d hd => ?_
  rw [← hv d (Finset.mem_range.mp hd), show len * (2 * b) = 2 * len * b by ring]

/-- Where x^len = -c, the lower child of a block keeps its value at x. -/
theorem blockValue_lower
    (hv : ∀ d < len, (w (2 * len * b + d + len) : Residue) = v (2 * len * b + d) - c * v (2 * len * b + d + len))
    (hx : x ^ len = -c) : blockValue w len (2 * b + 1) x = blockValue v (2 * len) b x := by
  rw [blockValue_double, hx]
  refine Finset.sum_congr rfl fun d hd => ?_
  rw [neg_mul, ← sub_eq_add_neg, ← hv d (Finset.mem_range.mp hd), show len * (2 * b + 1) + d = 2 * len * b + d + len by ring]

end

/-- The point at which output i evaluates: ROOT^(2·brv8(i) + 1). -/
def evalPoint (i : Nat) : Residue := 1753 ^ (2 * brv8 i + 1)

/-- The exponents of the points and of the zetas agree modulo 512, but for the sign that bit 7 - l of i gives. -/
theorem evalPoint_exponent : ∀ l < 8, ∀ i < 256, (2 * brv8 i + 1) * 2 ^ (7 - l) % 512 =
    brv8 (2 ^ l + i / 2 ^ (7 - l) / 2) + 256 * (i / 2 ^ (7 - l) % 2) := by decide +kernel

theorem evalPoint_pow {l i : Nat} (hl : l < 8) (hi : i < 256) :
    evalPoint i ^ 2 ^ (7 - l) = 1753 ^ brv8 (2 ^ l + i / 2 ^ (7 - l) / 2) * (-1) ^ (i / 2 ^ (7 - l) % 2) := by
  have hroot : (1753 : Residue) ^ 512 = 1 := by
    rw [show 512 = 256 * 2 from rfl, pow_mul, root_pow_256, neg_one_sq]
  rw [evalPoint, ← pow_mul, pow_eq_pow_mod _ hroot, evalPoint_exponent l hl i hi, pow_add, pow_mul, root_pow_256]

section

variable {a : List Word} {l i : Nat} {B : Int}

/-- At every level the block that output i is in keeps the input's value at the point of i. -/
theorem blockValue_nttStage (ha : a.length = 256) (hin : ∀ i < 256, |signedAt a i| ≤ B)
    (hB : B + 8 * 8380416 < 2147483648) (hi : i < 256) (hl : l ≤ 8) :
    blockValue (signedAt (nttStage a l)) (2 ^ (8 - l)) (i / 2 ^ (8 - l)) (evalPoint i) =
      blockValue (signedAt a) 256 0 (evalPoint i) := by
  induction l with
  | zero => rw [Nat.div_eq_of_lt (by omega)]; rfl
  | succ l ih =>
    have hlen : 2 ^ (8 - l) = 2 * 2 ^ (7 - l) := by rw [← Nat.pow_succ']; congr 1; omega
    have hpow := evalPoint_pow (l := l) (by omega) hi
    rw [← ih (by omega), hlen, Nat.mul_comm 2, ← Nat.div_div_eq_div_mul, Nat.mul_comm _ 2, show 8 - (l + 1) = 7 - l by omega]
    have hc : i / 2 ^ (7 - l) < 2 * 2 ^ l := Nat.div_lt_of_lt_mul (by
      rw [← mul_assoc, mul_comm _ 2, level_size l (by omega)]
      exact hi)
    generalize i / 2 ^ (7 - l) = c at hpow hc ⊢
    have hlevel := nttStage_isLevel_of_bound ha hin hB (l := l) (by omega) (c / 2) (by omega)
    obtain ⟨b, rfl | rfl⟩ := Nat.even_or_odd' c
    · rw [Nat.mul_mod_right, Nat.mul_div_cancel_left b two_pos] at hpow
      rw [Nat.mul_div_cancel_left b two_pos] at hlevel ⊢
      refine blockValue_upper (fun d hd => ?_) (hpow.trans (mul_one _))
      rw [(hlevel d hd).1, Int.cast_add, residue_mont_zetaOf]
    · rw [show (2 * b + 1) % 2 = 1 by omega, show (2 * b + 1) / 2 = b by omega] at hpow
      rw [show (2 * b + 1) / 2 = b by omega] at hlevel ⊢
      refine blockValue_lower (fun d hd => ?_) (hpow.trans (by rw [pow_one, mul_neg_one]))
      rw [(hlevel d hd).2, Int.cast_sub, residue_mont_zetaOf]

end

/-- The sum of R147 over the coefficients in order is the value at the point of i. -/
theorem blockValue_input (p : Poly) (i : Nat) : blockValue (signedAt p.coeffs) 256 0 (evalPoint i) =
    (((List.range 256).map fun j => p.coeff j * (1753 : Int) ^ ((2 * brv8 i + 1) * j)).sum : Int) := by
  rw [blockValue, ← List.toFinset_range, List.sum_toFinset _ List.nodup_range, Int.cast_list_sum, List.map_map]
  refine congrArg List.sum (List.map_congr_left fun j _ => ?_)
  rw [Function.comp_apply, Int.cast_mul, Int.cast_pow, pow_mul, Nat.mul_zero, Nat.zero_add]
  rfl

/-- Settles O43: after the last level the blocks are single entries. -/
theorem forwardTransformEvaluates : Obligations.ForwardTransformEvaluates := by
  intro p b hin hb i hi
  refine dvd_of_residue_eq (Eq.trans ?_ ((blockValue_nttStage p.size hin hb hi le_rfl).trans (blockValue_input p i)))
  rw [ntt_coeff, nttCoeffs_eq_stage, blockValue, Nat.sub_self, pow_zero, Finset.sum_range_one, Nat.div_one, pow_zero,
    mul_one, one_mul, Nat.add_zero]

/-! ## The round trip (R148)

Level m of the inverse undoes level 7 - m of the forward transform, twice over: x and t come back as 2·x and 2·t. An addition could
only wrap at an entry that no inverse level has reduced, and such an entry is an exact multiple of a forward value. -/

/-- Entry i holds y, 2^m times x: modulo Q always, exactly where i only ever took the upper half, and small where a Montgomery
product has reduced it on its way. -/
structure ScaledAt (m i : Nat) (x y : Int) : Prop where
  residue : (y : Residue) = 2 ^ m * x
  exact_upper : 2 ^ m ∣ i → y = 2 ^ m * x
  bound : ¬ 2 ^ m ∣ i → 2 * |y| ≤ 2 ^ m * 8380416

theorem ScaledAt.zero (i : Nat) (x : Int) : ScaledAt 0 i x x where
  residue := by rw [pow_zero, one_mul]
  exact_upper _ := by rw [pow_zero, one_mul]
  bound h := absurd (one_dvd i) h

/-- The zeta of an inverse butterfly is the negative inverse of the forward one's (R140, R144). -/
theorem brv8_add_brv8 : ∀ m < 8, ∀ b < 2 ^ (7 - m), brv8 (2 ^ (8 - m) - 1 - b) + brv8 (2 ^ (7 - m) + b) = 256 := by decide

theorem root_pow_mul_root_pow {m b : Nat} (hm : m < 8) (hb : b < 2 ^ (7 - m)) :
    (1753 : Residue) ^ brv8 (2 ^ (8 - m) - 1 - b) * 1753 ^ brv8 (2 ^ (7 - m) + b) = -1 := by
  rw [← pow_add, brv8_add_brv8 m hm b hb, root_pow_256]

theorem residue_mont_neg_zetaOf (k : Nat) {y : Int} (hy : |y| ≤ 2147483648) :
    (mont (-zetaOf k * y) : Residue) = -(1753 ^ brv8 k) * y :=
  residue_mont (by rw [abs_neg]; exact abs_zetaOf_le k) hy (by rw [Int.cast_neg, residue_zetaOf, mul_neg])

/-- 256·(Q - 1) is in the signed 32-bit range (R149). -/
theorem low_of_abs_le_256_mul {x : Int} (hx : |x| ≤ 256 * 8380416) : low x = x :=
  low_of_fits (by linarith [(abs_le.mp hx).1]) (by linarith [(abs_le.mp hx).2])

/-- The room at a never reduced entry: 2^(m+1) times a forward value of level 7 - m stays within 256·(Q - 1). -/
theorem two_pow_mul_level_le : ∀ m < 8, (2 : Int) ^ (m + 1) * ((7 - m : Nat) + 1) ≤ 256 := by decide

theorem two_pow_le : ∀ m < 8, (2 : Int) ^ (m + 1) ≤ 256 := by decide

section

variable {m d : Nat} {x t w w' : Int}

/-- Doubling in the never reduced pair: neither the sum 2^(m+1)·x nor the difference 2^(m+1)·t wraps. -/
theorem exact_pair_range (hm : m < 8) (hx : |x| ≤ 8380416 + (7 - m : Nat) * 8380416) (ht : |t| ≤ 8380416)
    (hw : w = 2 ^ m * (x + t)) (hw' : w' = 2 ^ m * (x - t)) :
    w + w' = 2 ^ (m + 1) * x ∧ |w + w'| ≤ 256 * 8380416 ∧ |w - w'| ≤ 256 * 8380416 := by
  have hsum : w + w' = 2 ^ (m + 1) * x := by rw [hw, hw']; ring
  have hdiff : w - w' = 2 ^ (m + 1) * t := by rw [hw, hw']; ring
  have hpos : (0 : Int) < 2 ^ (m + 1) := by positivity
  refine ⟨hsum, ?_, ?_⟩
  · rw [hsum, abs_mul, abs_of_pos hpos]
    nlinarith [two_pow_mul_level_le m hm]
  · rw [hdiff, abs_mul, abs_of_pos hpos]
    exact mul_le_mul (two_pow_le m hm) ht (abs_nonneg t) (by decide)

/-- Entries that a product has reduced on their way double at most: their pair does not wrap. -/
theorem reduced_pair_range (hm : m < 8) (hw : 2 * |w| ≤ 2 ^ m * 8380416) (hw' : 2 * |w'| ≤ 2 ^ m * 8380416) :
    2 * |w + w'| ≤ 2 ^ (m + 1) * 8380416 ∧ |w + w'| ≤ 256 * 8380416 ∧ |w - w'| ≤ 256 * 8380416 := by
  have hpow := two_pow_le m hm
  have hsum := abs_add_le w w'
  have hdiff := abs_sub w w'
  rw [pow_succ] at hpow ⊢
  exact ⟨by linarith, by linarith, by linarith⟩

end

section

variable {m b d i i' : Nat} {x y t w w' : Int}

/-- Where the outputs x ± t of a forward butterfly come back scaled, their sum is 2^(m+1)·x or small, and nothing wraps. -/
theorem ScaledAt.pair_range (hm : m < 8) (hv : ScaledAt m i (x + t) w) (hv' : ScaledAt m i' (x - t) w')
    (hside : 2 ^ m ∣ i' ↔ 2 ^ m ∣ i) (hx : |x| ≤ 8380416 + (7 - m : Nat) * 8380416) (ht : |t| ≤ 8380416) :
    (2 ^ m ∣ i → w + w' = 2 ^ (m + 1) * x) ∧ (¬ 2 ^ m ∣ i → 2 * |w + w'| ≤ 2 ^ (m + 1) * 8380416) ∧
    |w + w'| ≤ 256 * 8380416 ∧ |w - w'| ≤ 256 * 8380416 := by
  by_cases hi : 2 ^ m ∣ i
  · obtain ⟨hsum, hranges⟩ := exact_pair_range hm hx ht (hv.exact_upper hi) (hv'.exact_upper (hside.mpr hi))
    exact ⟨fun _ => hsum, fun h => absurd hi h, hranges⟩
  · obtain ⟨hsum, hranges⟩ := reduced_pair_range hm (hv.bound hi) (hv'.bound (mt hside.mp hi))
    exact ⟨fun h => absurd h hi, fun _ => hsum, hranges⟩

/-- Which entries of a pair only ever took the upper half: before a level both or none of them, after it at most the upper one. -/
theorem pair_dvd (b : Nat) (hd : d < 2 ^ m) :
    (2 ^ m ∣ 2 * 2 ^ m * b + d + 2 ^ m ↔ 2 ^ m ∣ 2 * 2 ^ m * b + d) ∧
    (2 ^ (m + 1) ∣ 2 * 2 ^ m * b + d ↔ 2 ^ m ∣ 2 * 2 ^ m * b + d) ∧ ¬ 2 ^ (m + 1) ∣ 2 * 2 ^ m * b + d + 2 ^ m := by
  have hzero {k e : Nat} (he : e < k) : k ∣ e ↔ e = 0 := ⟨fun h => Nat.eq_zero_of_dvd_of_lt h he, fun h => h ▸ dvd_zero k⟩
  have hhalf : 2 ^ m ∣ 2 * 2 ^ m * b := ⟨2 * b, by ring⟩
  have hblock : 2 ^ (m + 1) ∣ 2 * 2 ^ m * b := ⟨b, by ring⟩
  have hpow : 2 ^ (m + 1) = 2 ^ m + 2 ^ m := by ring
  refine ⟨Nat.dvd_add_self_right, ?_, ?_⟩
  · rw [Nat.dvd_add_right hhalf, Nat.dvd_add_right hblock, hzero hd, hzero (by omega)]
  · rw [Nat.add_assoc, Nat.dvd_add_right hblock, hzero (by omega)]
    omega

/-- An inverse butterfly on the scaled outputs x ± t of a forward butterfly gives its inputs x and y, scaled once more. -/
theorem ScaledAt.butterfly (hm : m < 8) (hb : b < 2 ^ (7 - m)) (hd : d < 2 ^ m)
    (hx : |x| ≤ 8380416 + (7 - m : Nat) * 8380416) (hy : |y| ≤ 2147483648)
    (hv : ScaledAt m (2 * 2 ^ m * b + d) (x + mont (zetaOf (2 ^ (7 - m) + b) * y)) w)
    (hv' : ScaledAt m (2 * 2 ^ m * b + d + 2 ^ m) (x - mont (zetaOf (2 ^ (7 - m) + b) * y)) w') :
    ScaledAt (m + 1) (2 * 2 ^ m * b + d) x (invUpper w w') ∧
    ScaledAt (m + 1) (2 * 2 ^ m * b + d + 2 ^ m) y (invLower (-zetaOf (2 ^ (8 - m) - 1 - b)) w w') := by
  have hz := abs_zetaOf_le (2 ^ (7 - m) + b)
  obtain ⟨hside, hupper, hlower⟩ := pair_dvd b hd
  obtain ⟨hexact, hsmall, hsum, hdiff⟩ := hv.pair_range hm hv' hside hx (Int.le_of_lt_add_one (abs_mont_lt hz hy))
  have ht := residue_mont hz hy (residue_zetaOf _)
  have hr := hv.residue
  have hr' := hv'.residue
  rw [Int.cast_add] at hr
  rw [Int.cast_sub] at hr'
  constructor
  · rw [invUpper, low_of_abs_le_256_mul hsum]
    refine ⟨?_, fun h => hexact (hupper.mp h), fun h => hsmall (mt hupper.mpr h)⟩
    rw [Int.cast_add, hr, hr']
    ring
  · rw [invLower, low_of_abs_le_256_mul hdiff]
    refine ⟨?_, fun h => absurd h hlower, fun _ => ?_⟩
    · rw [residue_mont_neg_zetaOf _ (by omega), Int.cast_sub, hr, hr', ht]
      linear_combination (-(2 : Residue) ^ (m + 1) * y) * root_pow_mul_root_pow hm hb
    · have hred := abs_mont_lt (z := -zetaOf (2 ^ (8 - m) - 1 - b)) (by rw [abs_neg]; exact abs_zetaOf_le _)
        (y := w - w') (by omega)
      have hpow : (2 : Int) ≤ 2 ^ (m + 1) := le_self_pow₀ (by decide) (Nat.succ_ne_zero m)
      linarith

end

/-- The inputs of R148 are in the growth contract of R146. -/
theorem round_trip_bound {a : List Word} (ha : a.length = 256) (hin : ∀ i < 256, |signedAt a i| ≤ 8380416)
    {l i : Nat} (hl : l ≤ 8) (hi : i < 256) : |signedAt (nttStage a l) i| ≤ 8380416 + l * 8380416 := abs_nttStage_le ha hin (by decide) hl i hi

/-- After m inverse levels the forward values after 8 - m levels are back, times 2^m. -/
theorem scaledAt_invStage {a : List Word} {m : Nat} (ha : a.length = 256) (hin : ∀ i < 256, |signedAt a i| ≤ 8380416)
    (hm : m ≤ 8) : ∀ i < 256, ScaledAt m i (signedAt (nttStage a (8 - m)) i) (signedAt (invStage (nttCoeffs a) m) i) := by
  induction m with
  | zero =>
    rw [nttCoeffs_eq_stage]
    exact fun i _ => .zero i _
  | succ m ih =>
    have hprev := ih (by omega)
    have hfwd := nttStage_isLevel_of_bound ha hin (by decide) (l := 7 - m) (by omega)
    have hinv := invStage_isLevel (nttCoeffs_length a ha) (m := m) (by omega)
    rw [show 7 - (7 - m) = m by omega, show 7 - m + 1 = 8 - m by omega] at hfwd
    rw [show 8 - (m + 1) = 7 - m by omega]
    intro i hi
    rw [← invLevel_size m (by omega)] at hi
    obtain ⟨b, hb, d, hd, hidx⟩ := exists_butterfly hi
    have hlt := butterfly_lt hb hd
    rw [invLevel_size m (by omega)] at hlt
    obtain ⟨hv, hv'⟩ := hfwd b hb d hd
    obtain ⟨hw, hw'⟩ := hinv b hb d hd
    have hpair := ScaledAt.butterfly (by omega) hb hd (round_trip_bound ha hin (by omega) (by omega)) (abs_signedAt_le _ _)
      (hv ▸ hprev _ (by omega)) (hv' ▸ hprev _ hlt)
    obtain rfl | rfl := hidx
    · exact hw ▸ hpair.1
    · exact hw' ▸ hpair.2

/-- Settles O44: 256·a_i is left after the last inverse level, and F = 2^24·2^32 makes 2^32·a_i of it. -/
theorem inverseOfForward : Obligations.InverseOfForward := by
  intro p hin i hi
  have hscaled := (scaledAt_invStage p.size (fun i hi => Int.le_of_lt_add_one (hin i hi)) le_rfl i hi).residue
  have hscale : ((41978 : Int) : Residue) = 4294967296 * 16777216 := by
    exact_mod_cast residue_eq_of_dvd (x := 41978) (y := 4294967296 * 16777216) (by decide)
  have hvalue : (invNtt (ntt p)).coeff i = mont (41978 * signedAt (invStage (nttCoeffs p.coeffs) 8) i) := by
    rw [invNtt_coeff, signedAt_invNttCoeffs (ntt p).size hi, ntt]
  have hinput : signedAt (nttStage p.coeffs (8 - 8)) i = p.coeff i := rfl
  refine dvd_of_residue_eq ?_
  rw [hvalue, residue_mont (by decide) (abs_signedAt_le _ _) hscale, hscaled, hinput, Int.cast_mul]
  push_cast
  ring

end Sys2Proof.Machine

/-! # The polynomial commands (O34 to O39)

Each command passes its checks in a legal place, reads written slots, and writes lists of polynomials computed coefficient by
coefficient from them. One lemma says this of every command with two sources (`writesSlots_of_two_sources`), and what each one writes
is read off the formula of one coefficient, as O28 and O29 read the scalars. -/

namespace Sys2Proof.Machine

open Spec (low mont word reduce addQ roundHigh roundLow bucket offset hintBit hinted entry coeffsOf dotEntry)
open Spec (SlotsHold SlotsFit Apart SameOrApart BytesSame Completes WritesSlots)

/-! ## The formulas of one coefficient (R161 to R166, R169 to R172) -/

theorem reduce32_toInt (a : Int) : (reduce32 a).toInt = reduce a := by
  rw [← word_reduce, reduce, word_low, low32_toInt]

theorem caddq_toInt_eq_addQ (a : Int) : (caddq a).toInt = addQ a := by
  rw [← word_addQ, addQ, word_low, low32_toInt]

theorem mulMont_toInt (x y : Word) : (mulMont x y).toInt = mont (x.toInt * y.toInt) := montgomeryReduce_toInt _

theorem power2round_fst_toInt (a : Int) : (power2round a).1.toInt = roundHigh a := by
  rw [power2round_eq, roundHigh, low32_toInt]

theorem power2round_snd_toInt (a : Int) : (power2round a).2.toInt = roundLow a := by
  rw [power2round_eq, roundLow, low32_toInt]

theorem makeHint_toInt (a0 a1 : Int) : (makeHint a0 a1).toInt = hintBit a0 a1 := by
  rw [← word_hintBit, hintBit]
  split <;> rfl

theorem hinted_range (a h : Int) : 0 ≤ hinted a h ∧ hinted a h < 16 := by
  have hbucket : 0 ≤ bucket a ∧ bucket a < 16 := by rw [bucket]; omega
  rw [hinted]
  split
  · exact hbucket
  · split <;> omega

theorem useHint_toInt (a : Int) (h : Word) : (useHint a h).toInt = hinted a h.toInt := by
  obtain ⟨hlo, hhi⟩ := hinted_range a h.toInt
  rw [← word_hinted]
  exact low32_toInt_of_fits (by omega) (by omega)

/-! ## Coefficients of polynomials and of vectors (R14, R160) -/

section

variable {f : Word → Word} {g : Int → Int} {f₂ : Word → Word → Word} {g₂ : Int → Int → Int} {as bs : List Poly} {n k j : Nat}

theorem Poly.coeff_eq_getElem (p : Poly) (hj : j < p.coeffs.length) : p.coeff j = p.coeffs[j].toInt := by
  rw [Poly.coeff, List.getD_eq_getElem _ _ hj]

theorem Poly.coeff_map (hf : ∀ x, (f x).toInt = g x.toInt) (p : Poly) (hj : j < 256) :
    (p.map f).coeff j = g (p.coeff j) := by
  rw [Poly.coeff_eq_getElem p (by rwa [p.size]), Poly.coeff_eq_getElem _ (by rwa [Poly.size]), ← hf]
  simp only [Poly.map, List.getElem_map]

theorem Poly.coeff_zipWith (hf : ∀ x y, (f₂ x y).toInt = g₂ x.toInt y.toInt) (p r : Poly) (hj : j < 256) :
    (Poly.zipWith f₂ p r).coeff j = g₂ (p.coeff j) (r.coeff j) := by
  rw [Poly.coeff_eq_getElem p (by rwa [p.size]), Poly.coeff_eq_getElem r (by rwa [r.size]),
    Poly.coeff_eq_getElem _ (by rwa [Poly.size]), ← hf]
  simp only [Poly.zipWith, List.getElem_zipWith]

theorem entry_of_getElem? {p : Poly} (hp : as[k]? = some p) (j : Nat) : entry as k j = p.coeff j := by
  rw [entry, hp]

theorem entry_eq_coeff (hk : k < as.length) (j : Nat) : entry as k j = as[k].coeff j :=
  entry_of_getElem? (List.getElem?_eq_getElem hk) j

theorem entry_map (hf : ∀ x, (f x).toInt = g x.toInt) (hk : k < as.length) (hj : j < 256) :
    entry (as.map (Poly.map f)) k j = g (entry as k j) := by
  rw [entry_eq_coeff hk, entry_eq_coeff (by rwa [List.length_map]), List.getElem_map, Poly.coeff_map hf _ hj]

theorem entry_zipWith (hf : ∀ x y, (f₂ x y).toInt = g₂ x.toInt y.toInt) (ha : k < as.length) (hb : k < bs.length) (hj : j < 256) :
    entry (List.zipWith (Poly.zipWith f₂) as bs) k j = g₂ (entry as k j) (entry bs k j) := by
  rw [entry_eq_coeff ha, entry_eq_coeff hb, entry_eq_coeff (by rw [List.length_zipWith]; omega), List.getElem_zipWith,
    Poly.coeff_zipWith hf _ _ hj]

end

/-! ## Legal places (R301, R304) -/

theorem not_intersects_of_apart {x y : Range} (h : Apart x.start x.len y.start y.len) : intersects x y = false := by
  rw [← Bool.not_eq_true, intersects_iff]
  rintro ⟨hxy, hyx⟩
  simp only [Range.pair, Apart] at hxy hyx h
  omega

/-- A command on slots alone passes its checks where every range fits, each destination is one of the sources or apart from it,
and the destinations are apart. -/
theorem validate_of_apart {p : Config.Params} {dsts srcs : List Range} (hfit : ∀ r ∈ dsts ++ srcs, r.start + r.len ≤ p.nslot)
    (hplace : ∀ d ∈ dsts, ∀ x ∈ srcs, d = x ∨ Apart d.start d.len x.start x.len)
    (hdsts : dsts.Pairwise fun d e => Apart d.start d.len e.start e.len) :
    validate p { slotDst := dsts, slotSrc := srcs } = none := by
  have hmeet : ∀ d ∈ dsts, ∀ x ∈ srcs, intersects d x = true → d = x := fun d hd x hx hinter =>
    (hplace d hd x hx).resolve_right fun hapart => by simp [not_intersects_of_apart hapart] at hinter
  have hdisjoint : pairwiseDisjoint dsts = true := by
    rw [pairwiseDisjoint_iff, List.pairwise_map]
    refine hdsts.imp fun {d e} hapart => ?_
    rw [← intersects_iff, not_intersects_of_apart hapart]
    exact Bool.false_ne_true
  refine (validate_eq_none_iff _ _).mpr ⟨hfit, by simp, ?_⟩
  simpa [overlapping, hdisjoint, pairwiseDisjoint] using hmeet

theorem validate_of_two_sources {p : Config.Params} {d x y : Range} (hd : d.start + d.len ≤ p.nslot)
    (hx : x.start + x.len ≤ p.nslot) (hy : y.start + y.len ≤ p.nslot) (hdx : d = x ∨ Apart d.start d.len x.start x.len)
    (hdy : d = y ∨ Apart d.start d.len y.start y.len) : validate p { slotDst := [d], slotSrc := [x, y] } = none :=
  validate_of_apart (by simp [hd, hx, hy]) (by simp [hdx, hdy]) (List.pairwise_singleton _ _)

theorem range_eq_or_apart {x y n : Nat} (h : SameOrApart x y n) : (⟨x, n⟩ : Range) = ⟨y, n⟩ ∨ Apart x n y n :=
  h.imp_left (congrArg (Range.mk · n))

/-- A destination in the place of a source of another length is in place only at that length. -/
theorem range_eq_or_apart_of_lengths {x y n m c : Nat} (h : (c = 1 ∧ x = y) ∨ Apart x n y m) (hlen : c = 1 → n = m) :
    (⟨x, n⟩ : Range) = ⟨y, m⟩ ∨ Apart x n y m :=
  h.imp_left fun ⟨hone, hxy⟩ => by rw [hxy, hlen hone]

/-! ## Commands on written slots -/

section

variable {s : State} {i : Instr} {rd ra rb n m c : Nat} {as bs : List Poly} {val : Nat → Nat → Int}

/-- A command with two sources that writes F of them and completes with R of them, on written slots and in a legal place. -/
theorem writesSlots_of_two_sources (F : List Poly → List Poly → List Poly) (R : List Poly → List Poly → Word)
    (hexec : exec i s = checked i s (withSlots s ra n fun as => withSlots s rb m fun bs =>
      .next ((s.writeSlots rd (F as bs)).complete (R as bs) 0)))
    (hvalid : validate s.params (operandsOf i s.params s.argv) = none) (halen : as.length = n) (hblen : bs.length = m)
    (ha : SlotsHold s ra as) (hb : SlotsHold s rb bs) (hlen : (F as bs).length = c)
    (hval : ∀ k j, k < c → j < 256 → entry (F as bs) k j = val k j) : WritesSlots i s rd c (R as bs) val := by
  refine ⟨(s.writeSlots rd (F as bs)).complete (R as bs) 0, F as bs, ?_, rfl, fun _ => rfl, hlen,
    Sparse.get_setRange s.pm rd (F as bs), hval⟩
  rw [hexec, checked_of_valid hvalid, withSlots_of_some (getRange_of_slotsHold halen ha),
    withSlots_of_some (getRange_of_slotsHold hblen hb)]

/-- A two-source lift of a formula g on coefficients. -/
theorem lift2_writesSlots {f : Word → Word → Word} (g : Int → Int → Int)
    (hexec : exec i s = lift2 i rd ra rb n (Poly.zipWith f) s) (hf : ∀ x y, (f x y).toInt = g x.toInt y.toInt)
    (hvalid : validate s.params (operandsOf i s.params s.argv) = none) (halen : as.length = n) (hblen : bs.length = n)
    (ha : SlotsHold s ra as) (hb : SlotsHold s rb bs) :
    WritesSlots i s rd n 0 fun k j => g (entry as k j) (entry bs k j) :=
  writesSlots_of_two_sources (List.zipWith (Poly.zipWith f)) (fun _ _ => 0) hexec hvalid halen hblen ha hb
    (by rw [List.length_zipWith, halen, hblen, Nat.min_self]) fun k j hk hj => entry_zipWith hf (by omega) (by omega) hj

/-- A one-source lift of a formula g on coefficients. -/
theorem lift1_map_writesSlots {f : Word → Word} (g : Int → Int) (hexec : exec i s = lift1 i rd ra n (Poly.map f) s)
    (hf : ∀ x, (f x).toInt = g x.toInt) (hops : operandsOf i s.params s.argv = dstSrc rd ra n) (hlen : as.length = n)
    (ha : SlotsHold s ra as) (hdfit : SlotsFit s rd n) (hafit : SlotsFit s ra n) (hplace : SameOrApart rd ra n) :
    WritesSlots i s rd n 0 fun k j => g (entry as k j) :=
  lift1_writesSlots hexec hops hlen ha hdfit hafit hplace fun p k hp j hj => by
    rw [entry_of_getElem? hp, Poly.coeff_map hf p hj]

/-- Command i completes from s with RESULT = RESULT1 = 0; it writes the slots rd .. rd+n-1 with the values `hi` and the slots
rb .. rb+n-1 with the values `lo`, and no other slot and no byte (R169, R170). -/
def WritesSlotPairs (i : Instr) (s : State) (rd rb n : Nat) (hi lo : Nat → Nat → Int) : Prop :=
  ∃ t ps qs, exec i s = .next t ∧ Completes s t 0 0 ∧ BytesSame s t ∧ ps.length = n ∧ qs.length = n ∧
    (∀ y, t.pm.get y = if rd ≤ y ∧ y < rd + n then ps[y - rd]?
      else if rb ≤ y ∧ y < rb + n then qs[y - rb]? else s.pm.get y) ∧
    ∀ k j, k < n → j < 256 → entry ps k j = hi k j ∧ entry qs k j = lo k j

/-- Two writes to ranges apart: each range reads what was written to it. -/
theorem get_setRange_setRange {α : Type} (mem : Sparse α) {x y : Nat} {ps qs : List α}
    (hapart : Apart x ps.length y qs.length) (b : Nat) :
    ((mem.setRange x ps).setRange y qs).get b = if x ≤ b ∧ b < x + ps.length then ps[b - x]?
      else if y ≤ b ∧ b < y + qs.length then qs[b - y]? else mem.get b := by
  rw [Sparse.get_setRange, Sparse.get_setRange]
  by_cases hx : x ≤ b ∧ b < x + ps.length
  · rw [if_neg (by simp only [Apart] at hapart; omega), if_pos hx, if_pos hx]
  · rw [if_neg hx, if_neg hx]

/-- A lift with two results of the formulas `hi` and `lo` on coefficients. -/
theorem lift1Pair_writesSlotPairs {f g : Word → Word} (hi lo : Int → Int)
    (hexec : exec i s = lift1Pair i rd rb ra n (Poly.map f) (Poly.map g) s) (hf : ∀ x, (f x).toInt = hi x.toInt)
    (hg : ∀ x, (g x).toInt = lo x.toInt) (hvalid : validate s.params (operandsOf i s.params s.argv) = none)
    (hlen : as.length = n) (ha : SlotsHold s ra as) (hapart : Apart rd n rb n) :
    WritesSlotPairs i s rd rb n (fun k j => hi (entry as k j)) fun k j => lo (entry as k j) := by
  subst hlen
  refine ⟨((s.writeSlots rd (as.map (Poly.map f))).writeSlots rb (as.map (Poly.map g))).complete 0 0, as.map (Poly.map f),
    as.map (Poly.map g), ?_, rfl, fun _ => rfl, List.length_map _, List.length_map _, fun y => ?_, fun k j hk hj =>
      ⟨entry_map hf hk hj, entry_map hg hk hj⟩⟩
  · rw [hexec, lift1Pair, checked_of_valid hvalid, withSlots_of_some (getRange_of_slotsHold rfl ha)]
  · simpa using get_setRange_setRange s.pm (ps := as.map (Poly.map f)) (qs := as.map (Poly.map g)) (by simpa using hapart) y

end

/-! ## Lifts (R160 to R166, R169, R170, R172) -/

/-- Settles O34: each command is a lift of its coefficient's formula. -/
theorem twoSourceLifts : Obligations.TwoSourceLifts := by
  intro s rd ra rb vl as bs halen hblen ha hb hdfit hafit hbfit hda hdb
  have hvalid : validate s.params (dstSrcSrc rd ra rb vl.count) = none :=
    validate_of_two_sources hdfit hafit hbfit (range_eq_or_apart hda) (range_eq_or_apart hdb)
  exact ⟨lift2_writesSlots (fun x y => low (x + y)) rfl (fun _ _ => low32_toInt _) hvalid halen hblen ha hb,
    lift2_writesSlots (fun x y => low (x - y)) rfl (fun _ _ => low32_toInt _) hvalid halen hblen ha hb,
    lift2_writesSlots (fun x y => mont (x * y)) rfl mulMont_toInt hvalid halen hblen ha hb,
    lift2_writesSlots hinted rfl (fun _ _ => useHint_toInt _ _) hvalid halen hblen ha hb⟩

/-- Settles O35: each command is a lift of its coefficient's formula. -/
theorem oneSourceLifts : Obligations.OneSourceLifts := by
  intro s rd ra vl as hlen ha hdfit hafit hplace
  exact ⟨lift1_map_writesSlots (fun x => low (x * 8192)) rfl (fun _ => low32_toInt _) rfl hlen ha hdfit hafit hplace,
    lift1_map_writesSlots reduce rfl (fun _ => reduce32_toInt _) rfl hlen ha hdfit hafit hplace,
    lift1_map_writesSlots addQ rfl (fun _ => caddq_toInt_eq_addQ _) rfl hlen ha hdfit hafit hplace⟩

/-- Settles O36: the destinations are apart, so the second write leaves the first alone. -/
theorem twoResultLifts : Obligations.TwoResultLifts := by
  intro s rd ra rb vl as hlen ha hdfit hafit hbfit hda hba hapart c hc
  have hvalid : validate s.params (dstDstSrc rd rb ra vl.count) = none :=
    validate_of_apart (by simp [hdfit, hafit, hbfit]) (by simpa [SameOrApart] using And.intro hda hba)
      (by simp [hapart])
  obtain rfl | rfl : c = (.pp2r rd ra rb vl, roundHigh, roundLow) ∨ c = (.pdecomp rd ra rb vl, bucket, offset) := by
    simpa using hc
  · exact lift1Pair_writesSlotPairs roundHigh roundLow rfl (fun _ => power2round_fst_toInt _)
      (fun _ => power2round_snd_toInt _) hvalid hlen ha hapart
  · exact lift1Pair_writesSlotPairs bucket offset rfl (fun _ => decompose_fst_toInt _)
      (fun _ => decompose_snd_toInt _) hvalid hlen ha hapart

/-! ## Multipliers (R167, R168) -/

theorem Poly.coeff_mulMont (p r : Poly) {j : Nat} (hj : j < 256) : (p.mulMont r).coeff j = mont (p.coeff j * r.coeff j) :=
  Poly.coeff_zipWith (g₂ := fun x y => mont (x * y)) mulMont_toInt p r hj

theorem Poly.coeff_addTo (acc t : Poly) {j : Nat} (hj : j < 256) : (acc.addTo t).coeff j = low (acc.coeff j + t.coeff j) :=
  Poly.coeff_zipWith (g₂ := fun x y => low (x + y)) (fun _ _ => low32_toInt _) acc t hj

theorem entry_cons_zero (p : Poly) (ps : List Poly) (j : Nat) : entry (p :: ps) 0 j = p.coeff j := rfl

theorem entry_cons_succ (p : Poly) (ps : List Poly) (k j : Nat) : entry (p :: ps) (k + 1) j = entry ps k j := rfl

/-- Each coefficient of the accumulator adds the products of the two vectors in order (R168). -/
theorem coeff_foldl_addTo {j : Nat} (hj : j < 256) (as bs : List Poly) (hlen : as.length = bs.length) (acc : Poly) :
    ((List.zipWith Poly.mulMont as bs).foldl Poly.addTo acc).coeff j =
      (List.range bs.length).foldl (fun x c => low (x + mont (entry as c j * entry bs c j))) (acc.coeff j) := by
  induction as generalizing bs acc with
  | nil =>
    obtain rfl := List.eq_nil_of_length_eq_zero hlen.symm
    rfl
  | cons a as ih =>
    cases bs with
    | nil => cases hlen
    | cons b bs =>
      rw [List.zipWith_cons_cons, List.foldl_cons, ih bs (Nat.succ.inj hlen), Poly.coeff_addTo _ _ hj, Poly.coeff_mulMont _ _ hj,
        List.length_cons, List.range_succ_eq_map, List.foldl_cons, List.foldl_map]
      rfl

/-- A coefficient of the dot product of two vectors of n > 0 polynomials (R168). -/
theorem coeff_dotMont {as bs : List Poly} {n j : Nat} (hpos : 0 < n) (halen : as.length = n) (hblen : bs.length = n)
    (hj : j < 256) : (dotMont as bs).coeff j = dotEntry n (fun c => entry as c j) (fun c => entry bs c j) := by
  obtain ⟨a, as, rfl⟩ := List.exists_cons_of_length_pos (halen ▸ hpos)
  obtain ⟨b, bs, rfl⟩ := List.exists_cons_of_length_pos (hblen ▸ hpos)
  subst hblen
  rw [dotMont, coeff_foldl_addTo hj as bs (Nat.succ.inj halen), Poly.coeff_mulMont a b hj]
  rfl

theorem vecLen_count_pos (vl : VecLen) : 0 < vl.count := by cases vl <;> decide

/-- Settles O37: PPWMS maps the product with its one polynomial over the vector, PPWACC writes the one dot product. -/
theorem vectorMultipliers : Obligations.VectorMultipliers := by
  intro s rd ra rb vl as bs hblen hb hbfit ha
  refine ⟨fun halen hafit hdfit hdb hda => ?_, fun halen hafit hdfit hda hdb => ?_⟩
  · obtain ⟨a, rfl⟩ := List.length_eq_one_iff.mp halen
    refine writesSlots_of_two_sources (fun as bs => as.flatMap fun a => bs.map (Poly.mulMont a)) (fun _ _ => 0) rfl
      (validate_of_two_sources hdfit hafit hbfit (range_eq_or_apart_of_lengths hda id) (range_eq_or_apart hdb)) halen hblen ha hb
      (by simpa using hblen) fun k j hk hj => ?_
    rw [← hblen] at hk
    rw [List.flatMap_singleton, entry_eq_coeff (by rwa [List.length_map]), List.getElem_map, Poly.coeff_mulMont _ _ hj,
      entry_eq_coeff hk, entry_cons_zero]
  · refine writesSlots_of_two_sources (fun as bs => [dotMont as bs]) (fun _ _ => 0) rfl
      (validate_of_two_sources hdfit hafit hbfit (range_eq_or_apart_of_lengths hda Eq.symm)
        (range_eq_or_apart_of_lengths hdb Eq.symm)) halen hblen ha hb rfl fun k j hk hj => ?_
    obtain rfl := Nat.lt_one_iff.mp hk
    rw [entry_cons_zero, coeff_dotMont (vecLen_count_pos vl) halen hblen hj]

/-! ## The hint vector (R171) -/

/-- Of words 0 and 1, as many are nonzero as their sum says. -/
theorem countP_ne_zero_eq_sum {l : List Word} (hbits : ∀ c ∈ l, c = 0 ∨ c = 1) : (l.countP (· != 0) : Int) = (ints l).sum := by
  induction l with
  | nil => rfl
  | cons c l ih =>
    obtain ⟨hc, hl⟩ := List.forall_mem_cons.mp hbits
    have hcons : ints (c :: l) = c.toInt :: ints l := rfl
    rw [hcons, List.sum_cons, ← ih hl, List.countP_cons]
    obtain rfl | rfl := hc
    · simp
    · simp [add_comm]

/-- The weight of a vector of coefficients 0 and 1 is the sum of them all. -/
theorem weightOf_eq_sum {ps : List Poly} (hbits : ∀ p ∈ ps, ∀ c ∈ p.coeffs, c = 0 ∨ c = 1) :
    (weightOf ps : Int) = ((List.range ps.length).map fun k => ((List.range 256).map (entry ps k)).sum).sum := by
  have hrows : ps.map (fun p => (p.weight : Int)) =
      (List.range ps.length).map fun k => ((List.range 256).map (entry ps k)).sum := by
    refine List.ext_getElem (by simp) fun k hk hk' => ?_
    rw [List.length_map] at hk
    rw [List.getElem_map, List.getElem_map, List.getElem_range, Poly.weight,
      countP_ne_zero_eq_sum (hbits _ (List.getElem_mem hk)), ← coeffsOf_eq_ints (List.getElem?_eq_getElem hk), coeffsOf]
  rw [← hrows, weightOf, Nat.cast_list_sum, List.map_map]
  rfl

theorem makeHint_eq_zero_or_one (a0 a1 : Int) : makeHint a0 a1 = 0 ∨ makeHint a0 a1 = 1 :=
  (ite_eq_or_eq _ 1 0).symm

theorem hintPoly_bits (p r : Poly) : ∀ c ∈ (hintPoly p r).coeffs, c = 0 ∨ c = 1 := by
  intro c hc
  obtain ⟨j, hj, rfl⟩ := List.getElem_of_mem hc
  simp only [hintPoly, Poly.zipWith, List.getElem_zipWith]
  exact makeHint_eq_zero_or_one _ _

section

variable {as bs : List Poly} {n : Nat}

theorem entry_hints (halen : as.length = n) (hblen : bs.length = n) {k j : Nat} (hk : k < n) (hj : j < 256) :
    entry (List.zipWith hintPoly as bs) k j = hintBit (entry as k j) (entry bs k j) :=
  entry_zipWith (fun _ _ => makeHint_toInt _ _) (by omega) (by omega) hj

/-- The weight of a vector of hints is the sum of the hints. -/
theorem weightOf_hints (halen : as.length = n) (hblen : bs.length = n) : (weightOf (List.zipWith hintPoly as bs) : Int) =
    ((List.range n).map fun k => ((List.range 256).map fun j => hintBit (entry as k j) (entry bs k j)).sum).sum := by
  have hbits : ∀ p ∈ List.zipWith hintPoly as bs, ∀ c ∈ p.coeffs, c = 0 ∨ c = 1 := by
    intro p hp
    obtain ⟨k, hk, rfl⟩ := List.getElem_of_mem hp
    rw [List.getElem_zipWith]
    exact hintPoly_bits _ _
  rw [weightOf_eq_sum hbits, List.length_zipWith, halen, hblen, Nat.min_self]
  refine congrArg List.sum (List.map_congr_left fun k hk => congrArg List.sum (List.map_congr_left fun j hj => ?_))
  exact entry_hints halen hblen (List.mem_range.mp hk) (List.mem_range.mp hj)

end

/-- Settles O38: the weight that PMKHINT counts is the sum of the hints it writes. -/
theorem makeHintVector : Obligations.MakeHintVector := by
  intro s rd ra rb vl as bs halen hblen ha hb hdfit hafit hbfit hda hdb
  rw [← weightOf_hints halen hblen, word, BitVec.ofInt_natCast]
  exact writesSlots_of_two_sources (List.zipWith hintPoly)
    (fun as bs => BitVec.ofNat 32 (weightOf (List.zipWith hintPoly as bs))) rfl
    (validate_of_two_sources hdfit hafit hbfit (range_eq_or_apart hda) (range_eq_or_apart hdb)) halen hblen ha hb
    (by rw [List.length_zipWith, halen, hblen, Nat.min_self]) fun _ _ hk hj => entry_hints halen hblen hk hj

/-! ## The norm check (R173 to R175) -/

theorem normAtLeast_iff (p : Poly) (b : Int) : normAtLeast p b = true ↔ ∃ j < 256, |p.coeff j| ≥ b := by
  rw [normAtLeast, List.any_eq_true]
  constructor
  · rintro ⟨c, hc, hnorm⟩
    obtain ⟨j, hj, rfl⟩ := List.getElem_of_mem hc
    exact ⟨j, hj.trans_eq p.size, by rw [Poly.coeff_eq_getElem p hj]; simpa using hnorm⟩
  · rintro ⟨j, hj, hnorm⟩
    have hj' : j < p.coeffs.length := by rwa [p.size]
    exact ⟨p.coeffs[j], List.getElem_mem hj', by rw [Poly.coeff_eq_getElem p hj'] at hnorm; simpa using hnorm⟩

/-- The verdict on a vector where the bound does not decide alone. -/
theorem any_chkNorm_iff {b : Int} (hbound : ¬ boundTooLarge b = true) (ps : List Poly) :
    (ps.any fun p => chkNorm p b) = true ↔ ∃ k j, k < ps.length ∧ j < 256 ∧ |entry ps k j| ≥ b := by
  simp only [List.any_eq_true, chkNorm, hbound, Bool.false_or, normAtLeast_iff]
  constructor
  · rintro ⟨p, hp, j, hj, hnorm⟩
    obtain ⟨k, hk, rfl⟩ := List.getElem_of_mem hp
    exact ⟨k, j, hk, hj, by rwa [entry_eq_coeff hk]⟩
  · rintro ⟨k, j, hk, hj, hnorm⟩
    exact ⟨ps[k], List.getElem_mem hk, j, hj, by rwa [entry_eq_coeff hk] at hnorm⟩

/-- Settles O39: a bound above (Q-1)/8 decides alone, else the coefficients do. -/
theorem normCheck : Obligations.NormCheck := by
  intro s v ra vl ps hlatch hlen hps hfit
  obtain rfl := State.argv_of_latch hlatch
  by_cases hbound : boundTooLarge s.argv.a0.toInt = true
  · refine ⟨1, exec_pchknorm_of_boundTooLarge hbound hfit, ?_, .inr rfl⟩
    simp [(boundTooLarge_iff _).mp hbound]
  · have hvalid : validate s.params (operandsOf (.pchknorm ra vl) s.params s.argv) = none :=
      validate_of_apart (dsts := []) (by simpa using hfit) (by simp) List.Pairwise.nil
    refine ⟨if ps.any fun p => chkNorm p s.argv.a0.toInt then 1 else 0, ?_, ?_, ?_⟩
    · rw [exec_pchknorm_of_bound hbound, checked_of_valid hvalid, withSlots_of_some (getRange_of_slotsHold hlen hps)]
      rfl
    · rw [← hlen, ← any_chkNorm_iff hbound, ← boundTooLarge_iff, or_iff_right hbound]
      simp
    · exact (ite_eq_or_eq _ 1 0).symm

end Sys2Proof.Machine

/-! # The matrix-vector product (O51)

A uniform polynomial is the first 256 values that its stream gives, so a beginning of the stream that gives as many fixes what every
longer one samples (R200, R206). The 56 entries are then known row by row, and each row's dot product is PPWACC's (R191). -/

namespace Sys2Proof.Machine

open Spec (entry dotEntry stream byteAt uniformAccepted SlotsHold SlotsFit BytesFit Apart)

/-! ## The polynomial of a list of accepted values (R206, R209) -/

section

variable {l l' : List Int}

/-- The polynomial whose coefficients are the first 256 values accepted. -/
def acceptedPoly (l : List Int) : Poly := Poly.ofFn fun j => low32 (l.getD j 0)

theorem takePoly_map_low32 (hlen : 256 ≤ l.length) : takePoly (l.map low32) = .ok (acceptedPoly l) := by
  have htake : (l.map low32).take Config.polyLen = (acceptedPoly l).coeffs := by
    refine List.ext_getElem (by simpa [acceptedPoly, Poly.ofFn] using hlen) fun j hj _ => ?_
    have hjl : j < l.length := by simp at hj; omega
    simp [acceptedPoly, Poly.ofFn, hjl]
  rw [takePoly, htake, Poly.ofList, dif_pos (acceptedPoly l).size]

/-- Only the first 256 values matter. -/
theorem acceptedPoly_of_prefix (hpre : l <+: l') (hlen : 256 ≤ l.length) : acceptedPoly l' = acceptedPoly l := by
  obtain ⟨rest, rfl⟩ := hpre
  simp only [acceptedPoly, Poly.ofFn, Poly.mk.injEq]
  refine List.map_congr_left fun j hj => ?_
  rw [List.getD_append _ _ _ _ ((List.mem_range.mp hj).trans_le hlen)]

/-- A value that fits a word is read back. -/
theorem coeff_acceptedPoly (hfits : ∀ x ∈ l, -2147483648 ≤ x ∧ x < 2147483648) (hlen : 256 ≤ l.length) {j : Nat} (hj : j < 256) :
    (acceptedPoly l).coeff j = l.getD j 0 := by
  have hjl : j < l.length := hj.trans_le hlen
  obtain ⟨hlo, hhi⟩ := hfits _ (List.getElem_mem hjl)
  rw [Poly.coeff_eq_getElem _ (by rwa [Poly.size]), List.getD_eq_getElem _ _ hjl, ← low32_toInt_of_fits hlo hhi]
  simp [acceptedPoly, Poly.ofFn, hjl]

end

/-! ## The uniform sampler (R204 to R206) -/

section

variable {bs cs : List Byte}

/-- The candidates of a stream, each read at its place: three bytes from 3·m on. -/
theorem uniformCandidates_eq_map (bs : List Byte) : uniformCandidates bs = (List.range (bs.length / 3)).map fun m =>
    (byteAt bs (3 * m) + 256 * byteAt bs (3 * m + 1) + 65536 * byteAt bs (3 * m + 2)) % 8388608 := by
  induction bs using uniformCandidates.induct with
  | case1 b0 b1 b2 bs ih =>
    have hlen : (b0 :: b1 :: b2 :: bs).length / 3 = bs.length / 3 + 1 := by simp only [List.length_cons]; omega
    rw [uniformCandidates, ih, hlen, List.range_succ_eq_map, List.map_cons, List.map_map]
    rfl
  | case2 bs hshort =>
    obtain _ | ⟨b0, _ | ⟨b1, _ | ⟨b2, bs⟩⟩⟩ := bs
    · rfl
    · simp [uniformCandidates]
    · simp [uniformCandidates]
    · exact absurd rfl (hshort b0 b1 b2 bs)

theorem uniformAccepted_eq (bs : List Byte) : uniformAccepted bs =
    ((uniformCandidates bs).filter fun (t : Nat) => decide (t < 8380417)).map fun (t : Nat) => (t : Int) := by
  rw [uniformAccepted, uniformCandidates_eq_map]

/-- More of a stream gives the candidates that less of it gave, then others. -/
theorem uniformCandidates_prefix (hpre : bs <+: cs) : uniformCandidates bs <+: uniformCandidates cs := by
  obtain ⟨rest, rfl⟩ := hpre
  induction bs using uniformCandidates.induct with
  | case1 b0 b1 b2 bs ih => exact (List.prefix_cons_inj _).mpr ih
  | case2 bs hshort =>
    rw [uniformCandidates.eq_2 bs hshort]
    exact List.nil_prefix

theorem uniformAccepted_prefix (hpre : bs <+: cs) : uniformAccepted bs <+: uniformAccepted cs := by
  rw [uniformAccepted_eq, uniformAccepted_eq]
  exact ((uniformCandidates_prefix hpre).filter _).map _

/-- An accepted value is a residue (R206, R217). -/
theorem uniformAccepted_range (bs : List Byte) : ∀ x ∈ uniformAccepted bs, 0 ≤ x ∧ x < 8380417 := by
  intro x hx
  obtain ⟨t, ht, rfl⟩ := List.mem_map.mp hx
  have htq : t < 8380417 := of_decide_eq_true (List.mem_filter.mp ht).2
  omega

theorem uniformSample_eq (bs : List Byte) : uniformSample bs = takePoly ((uniformAccepted bs).map low32) := by
  have hbound : (fun t : Nat => decide ((t : Int) < Config.q)) = fun t : Nat => decide (t < 8380417) := by
    funext t
    exact decide_eq_decide.mpr Int.ofNat_lt
  rw [uniformSample, uniformAccepted_eq, List.map_map, hbound]
  rfl

/-- Where the beginning of a stream gives 256 values, more of the stream samples their polynomial. -/
theorem uniformSample_of_prefix (hpre : bs <+: cs) (hlen : 256 ≤ (uniformAccepted bs).length) :
    uniformSample cs = .ok (acceptedPoly (uniformAccepted bs)) := by
  have haccept : uniformAccepted bs <+: uniformAccepted cs := uniformAccepted_prefix hpre
  rw [uniformSample_eq, takePoly_map_low32 (hlen.trans haccept.length_le), acceptedPoly_of_prefix haccept hlen]

theorem coeff_uniform (hlen : 256 ≤ (uniformAccepted bs).length) {j : Nat} (hj : j < 256) :
    (acceptedPoly (uniformAccepted bs)).coeff j = (uniformAccepted bs).getD j 0 := by
  refine coeff_acceptedPoly (fun x hx => ?_) hlen hj
  obtain ⟨hlo, hhi⟩ := uniformAccepted_range bs x hx
  omega

end

/-! ## The streams (R200 to R202) -/

theorem nonceBytes_eq (nonce : Nat) : nonceBytes nonce = [BitVec.ofNat 8 (nonce % 256), BitVec.ofNat 8 (nonce / 256)] := by
  have hmod (x : Nat) : BitVec.ofNat 8 (x % 256) = BitVec.ofNat 8 x := by
    rw [← BitVec.toNat_inj, BitVec.toNat_ofNat, BitVec.toNat_ofNat, Nat.mod_mod]
  simp [nonceBytes, natToBytes, digits, hmod]

theorem stream_eq (mode : XofMode) (seed : List Byte) (nonce n : Nat) :
    stream mode seed nonce n = xofPrefix mode (seed ++ nonceBytes nonce) n := by
  rw [stream, nonceBytes_eq]

theorem stream_prefix (mode : XofMode) (seed : List Byte) (nonce : Nat) {n m : Nat} (h : n ≤ m) :
    stream mode seed nonce n <+: stream mode seed nonce m := by
  rw [stream, stream, ← xofPrefix_take mode _ h]
  exact List.take_prefix _ _

/-- A turn may draw `samplerChunk` bytes of each stream at least (notes/assumptions/6.md). -/
theorem samplerChunk_le_streamBudget (s : State) : Config.samplerChunk ≤ streamBudget s := Nat.le_add_left ..

/-! ## The matrix (R190) -/

section

variable {rho : List Byte} {n budget : Nat}

/-- Row k of the matrix, each entry sampled from the first n bytes of its stream. -/
def matrixRow (rho : List Byte) (n k : Nat) : List Poly :=
  (List.range 7).map fun c => acceptedPoly (uniformAccepted (stream .shake128 rho (256 * k + c) n))

theorem matrixRow_length (rho : List Byte) (n k : Nat) : (matrixRow rho n k).length = 7 := by simp [matrixRow]

/-- The matrix's rows, the first first. -/
def matrixRows (rho : List Byte) (n : Nat) : List (List Poly) := (List.range 8).map (matrixRow rho n)

/-- The entries' sessions sample the matrix row by row, where n bytes of each stream are enough. -/
theorem runSessions_entryMsgs (hbudget : n ≤ budget)
    (henough : ∀ k c, k < 8 → c < 7 → 256 ≤ (uniformAccepted (stream .shake128 rho (256 * k + c) n)).length) :
    runSessions uniformSample .shake128 budget (entryMsgs rho) = .ok (matrixRows rho n).flatten := by
  rw [runSessions_eq_ok, entryMsgs, List.flatMap, matrixRows]
  refine List.rel_flatten ?_
  rw [List.forall₂_map_left_iff, List.forall₂_map_right_iff, List.forall₂_same]
  intro k hk
  rw [matrixRow, List.forall₂_map_left_iff, List.forall₂_map_right_iff, List.forall₂_same]
  intro c hc
  rw [← stream_eq, Nat.mul_comm k]
  exact uniformSample_of_prefix (stream_prefix _ _ _ hbudget) (henough k c (List.mem_range.mp hk) (List.mem_range.mp hc))

/-- Cutting a concatenation of rows gives the rows back. -/
theorem rowsOf_flatten {rows : List (List Poly)} (hrows : ∀ row ∈ rows, row.length = 7) :
    rowsOf rows.length rows.flatten = rows := by
  induction rows with
  | nil => rfl
  | cons row rows ih =>
    obtain ⟨hrow, hrest⟩ := List.forall_mem_cons.mp hrows
    rw [List.length_cons, rowsOf, List.flatten_cons, List.take_left' hrow, List.drop_left' hrow, ih hrest]

theorem matProduct_matrixRows (rho : List Byte) (n : Nat) (vec : List Poly) :
    matProduct (matrixRows rho n).flatten vec = (List.range 8).map fun k => dotMont (matrixRow rho n k) vec := by
  have hlen : (matrixRows rho n).length = Config.vecK := by simp [matrixRows]
  have hrows : ∀ row ∈ matrixRows rho n, row.length = 7 := by simp [matrixRows, matrixRow_length]
  rw [matProduct, ← hlen, rowsOf_flatten hrows, matrixRows, List.map_map]
  rfl

/-- A dot product reads only the terms below its length. -/
theorem dotEntry_congr {a a' b : Nat → Int} {m : Nat} (hpos : 0 < m) (h : ∀ c < m, a c = a' c) :
    dotEntry m a b = dotEntry m a' b := by
  rw [dotEntry, dotEntry, h 0 hpos]
  refine List.foldl_ext _ _ _ fun acc c hc => ?_
  rw [h (c + 1) (by have := List.mem_range.mp hc; omega)]

/-- A coefficient of the product, from the accepted values of the row's streams (R190, R191). -/
theorem entry_matProduct {vec : List Poly} {k j : Nat} (hvec : vec.length = 7) (hk : k < 8) (hj : j < 256)
    (henough : ∀ c < 7, 256 ≤ (uniformAccepted (stream .shake128 rho (256 * k + c) n)).length) :
    entry (matProduct (matrixRows rho n).flatten vec) k j =
      dotEntry 7 (fun c => (uniformAccepted (stream .shake128 rho (256 * k + c) n)).getD j 0) (fun c => entry vec c j) := by
  have hrow : (matProduct (matrixRows rho n).flatten vec)[k]? = some (dotMont (matrixRow rho n k) vec) := by
    rw [matProduct_matrixRows, List.getElem?_map, List.getElem?_range hk]
    rfl
  rw [entry_of_getElem? hrow, coeff_dotMont (by decide) (matrixRow_length rho n k) hvec hj]
  refine dotEntry_congr (by decide) fun c hc => ?_
  rw [entry_eq_coeff (by rwa [matrixRow_length]), ← coeff_uniform (henough c hc) hj]
  simp [matrixRow]

end

/-! ## The command (R190, R191) -/

section

variable {s : State} {rd ra : Nat} {sl : SeedLen} {rho : List Byte} {vec entries : List Poly}

/-- MATVEC passes its checks where its ranges fit and the product is apart from the vector (R301, R302, R304). -/
theorem validate_matvec (hseed : BytesFit s s.argv.a0.toNat sl.bytes) (hd : SlotsFit s rd 8) (ha : SlotsFit s ra 7)
    (hapart : Apart rd 8 ra 7) : validate s.params (operandsOf (.matvec rd ra sl) s.params s.argv) = none := by
  have hmeet : intersects ⟨rd, 8⟩ ⟨ra, 7⟩ = false := not_intersects_of_apart hapart
  refine (validate_eq_none_iff _ _).mpr ⟨?_, ?_, ?_⟩
  · simpa [operandsOf] using And.intro hd ha
  · simpa [operandsOf] using hseed
  · simp [operandsOf, overlapping, pairwiseDisjoint, hmeet]

/-- MATVEC on a held seed, a written vector and streams that are long enough. -/
theorem exec_matvec_of_sampled (hvalid : validate s.params (operandsOf (.matvec rd ra sl) s.params s.argv) = none)
    (hlen : rho.length = sl.bytes) (hrho : Spec.SeedHeld s s.argv.a0.toNat rho) (hvec : vec.length = 7) (hold : SlotsHold s ra vec)
    (hsample : runSessions uniformSample .shake128 (streamBudget s) (entryMsgs rho) = .ok entries) :
    exec (.matvec rd ra sl) s = .next ({ s.writeSlots rd (matProduct entries vec) with
      matEntry := entries.getLastD (Poly.const 0),
      matAcc := (matProduct entries vec).getLastD (Poly.const 0) }.complete 0 0) := by
  change checked _ s (withSeed s sl.bytes _) = _
  rw [checked_of_valid hvalid, ← hlen, withSeed_of_seedHeld hrho, withSlots_of_some (getRange_of_slotsHold hvec hold), hsample]

end

/-- Settles O51: the beginnings that give enough fix the matrix, and MATVEC writes its rows' dot products. -/
theorem matrixVectorProduct : Obligations.MatrixVectorProduct := by
  intro s v rd ra sl rho vec n hlatch hlen hrho hseed hvec hold hd ha hapart hn henough
  obtain rfl := State.argv_of_latch hlatch
  have hsample : runSessions uniformSample .shake128 (streamBudget s) (entryMsgs rho) = .ok (matrixRows rho n).flatten :=
    runSessions_entryMsgs (hn.trans (samplerChunk_le_streamBudget s)) henough
  refine ⟨_, matProduct (matrixRows rho n).flatten vec,
    exec_matvec_of_sampled (validate_matvec hseed hd ha hapart) hlen hrho hvec hold hsample, rfl, fun _ => rfl,
    matProduct_length _ _, Sparse.get_setRange s.pm rd _, fun k j hk hj => ?_⟩
  exact entry_matProduct hvec hk hj fun c hc => henough k c hk hc

end Sys2Proof.Machine

/-! # The samplers (O45 to O50)

A sampler reads its stream from the front and stops where it has its polynomial, so a longer beginning of the stream samples no other
(`PrefixStable`; R202, R218). The uniform and the eta sampler take the first 256 values they accept (`AcceptanceSampler`); the
challenge's loop places its 60 signs byte by byte, and is followed through the statement's loop draw by draw. -/

namespace Sys2Proof.Machine

open Spec (value field entry stream byteAt nonceOf uniformAccepted etaAccepted drawByte challengeLoop isSampler)
open Spec (SeedHeld SlotsFit BytesFit WritesSlots)

/-! ## More of a stream (R202, R218) -/

section

variable {sampler : List Byte → Except Shortage Poly} {accepted : List Byte → List Int} {bs cs : List Byte} {p : Poly}

/-- What a beginning of a stream samples, more of the stream samples too. -/
def PrefixStable (sampler : List Byte → Except Shortage Poly) : Prop :=
  ∀ ⦃bs cs : List Byte⦄ ⦃p : Poly⦄, bs <+: cs → sampler bs = .ok p → sampler cs = .ok p

theorem xofPrefix_prefix (mode : XofMode) (msg : List Byte) {n m : Nat} (h : n ≤ m) :
    xofPrefix mode msg n <+: xofPrefix mode msg m := by
  rw [← xofPrefix_take mode msg h]
  exact List.take_prefix _ _

/-- A turn that draws more samples the polynomials that a turn that draws less has sampled. -/
theorem PrefixStable.runSessions_mono {mode : XofMode} {n m : Nat} {msgs : List (List Byte)} {ps : List Poly}
    (hstable : PrefixStable sampler) (hnm : n ≤ m) (h : runSessions sampler mode n msgs = .ok ps) :
    runSessions sampler mode m msgs = .ok ps := by
  rw [runSessions_eq_ok] at h ⊢
  exact h.imp fun msg _ hp => hstable (xofPrefix_prefix mode msg hnm) hp

/-! ## Samplers that accept values one by one (R204 to R206, R208, R209) -/

theorem takePoly_map_low32_eq_ok_iff {l : List Int} :
    takePoly (l.map low32) = .ok p ↔ 256 ≤ l.length ∧ acceptedPoly l = p := by
  by_cases hlen : 256 ≤ l.length
  · simp [takePoly_map_low32 hlen, hlen]
  · simp [takePoly, Poly.ofList, hlen]

/-- The sampler's polynomial is the first 256 values that it accepts, each a word, and more of a stream gives the values that less of
it gave, then others. -/
structure AcceptanceSampler (sampler : List Byte → Except Shortage Poly) (accepted : List Byte → List Int) : Prop where
  eq_takePoly : ∀ bs, sampler bs = takePoly ((accepted bs).map low32)
  accepted_prefix : ∀ {bs cs}, bs <+: cs → accepted bs <+: accepted cs
  fits : ∀ bs, ∀ x ∈ accepted bs, -2147483648 ≤ x ∧ x < 2147483648

theorem AcceptanceSampler.eq_ok_iff (h : AcceptanceSampler sampler accepted) :
    sampler bs = .ok p ↔ 256 ≤ (accepted bs).length ∧ acceptedPoly (accepted bs) = p := by
  rw [h.eq_takePoly, takePoly_map_low32_eq_ok_iff]

theorem AcceptanceSampler.exists_ok_iff (h : AcceptanceSampler sampler accepted) :
    (∃ p, sampler bs = .ok p) ↔ 256 ≤ (accepted bs).length := by
  simp [h.eq_ok_iff]

theorem AcceptanceSampler.prefixStable (h : AcceptanceSampler sampler accepted) : PrefixStable sampler := by
  intro bs cs p hpre hp
  obtain ⟨hlen, rfl⟩ := h.eq_ok_iff.mp hp
  have haccept : accepted bs <+: accepted cs := h.accepted_prefix hpre
  exact h.eq_ok_iff.mpr ⟨hlen.trans haccept.length_le, acceptedPoly_of_prefix haccept hlen⟩

theorem AcceptanceSampler.coeff_eq_getD (h : AcceptanceSampler sampler accepted) (hlen : 256 ≤ (accepted bs).length) {j : Nat}
    (hj : j < 256) : (acceptedPoly (accepted bs)).coeff j = (accepted bs).getD j 0 :=
  coeff_acceptedPoly (h.fits bs) hlen hj

/-- Every coefficient is an accepted value. -/
theorem AcceptanceSampler.coeff_mem (h : AcceptanceSampler sampler accepted) (hp : sampler bs = .ok p) {j : Nat} (hj : j < 256) :
    p.coeff j ∈ accepted bs := by
  obtain ⟨hlen, rfl⟩ := h.eq_ok_iff.mp hp
  rw [h.coeff_eq_getD hlen hj, List.getD_eq_getElem _ _ (hj.trans_le hlen)]
  exact List.getElem_mem _

theorem uniform_acceptanceSampler : AcceptanceSampler uniformSample uniformAccepted where
  eq_takePoly := uniformSample_eq
  accepted_prefix := uniformAccepted_prefix
  fits bs x hx := by
    obtain ⟨hlo, hhi⟩ := uniformAccepted_range bs x hx
    omega

/-! ## The eta sampler (R208, R209) -/

/-- The nibbles of a stream, each read at its place: two from each byte, the low one first. -/
theorem nibbles_eq_map (bs : List Byte) : nibbles bs = (List.range (2 * bs.length)).map fun c =>
    if c % 2 = 0 then byteAt bs (c / 2) % 16 else byteAt bs (c / 2) / 16 := by
  induction bs with
  | nil => rfl
  | cons b bs ih =>
    have hplace (c : Nat) : (c + 1 + 1) % 2 = c % 2 ∧ (c + 1 + 1) / 2 = c / 2 + 1 := by omega
    have hbyte (m : Nat) : byteAt (b :: bs) (m + 1) = byteAt bs m := rfl
    rw [nibbles, ih, List.length_cons, Nat.mul_succ, List.range_succ_eq_map, List.range_succ_eq_map]
    simp only [List.map_cons, List.map_map, Function.comp_def, Nat.succ_eq_add_one, hplace, hbyte]
    rfl

theorem nibbles_append (bs cs : List Byte) : nibbles (bs ++ cs) = nibbles bs ++ nibbles cs := by
  induction bs with
  | nil => rfl
  | cons b bs ih => rw [List.cons_append, nibbles, nibbles, ih, List.cons_append, List.cons_append]

theorem etaAccepted_eq (bs : List Byte) : etaAccepted bs =
    ((nibbles bs).filter fun (t : Nat) => decide (t < 15)).map fun (t : Nat) => 2 - ((t % 5 : Nat) : Int) := by
  rw [etaAccepted, nibbles_eq_map]

theorem etaAccepted_prefix (hpre : bs <+: cs) : etaAccepted bs <+: etaAccepted cs := by
  obtain ⟨rest, rfl⟩ := hpre
  rw [etaAccepted_eq, etaAccepted_eq, nibbles_append]
  exact ((List.prefix_append _ _).filter _).map _

/-- An accepted value is in [-ETA, ETA] (R209, R217). -/
theorem etaAccepted_range (bs : List Byte) : ∀ x ∈ etaAccepted bs, -2 ≤ x ∧ x ≤ 2 := by
  intro x hx
  obtain ⟨t, -, rfl⟩ := List.mem_map.mp hx
  omega

theorem eta_acceptanceSampler : AcceptanceSampler etaSample etaAccepted where
  eq_takePoly bs := by
    rw [etaSample, etaAccepted_eq, List.map_map]
    rfl
  accepted_prefix := etaAccepted_prefix
  fits bs x hx := by
    obtain ⟨hlo, hhi⟩ := etaAccepted_range bs x hx
    omega

end

/-! ## The vector samplers (R201, R203, R207, R210, R212) -/

section

variable {i : Instr} {s : State} {sampler : List Byte → Except Shortage Poly} {mode : XofMode}
  {accepted : List Byte → List Int} {rd n count : Nat} {sl : SeedLen} {seed : List Byte}
  {msgs : List Byte → List (List Byte)} {ps : List Poly} {val : Nat → Nat → Int}

/-- A destination in PM and a source in BM pass the checks where both fit (R301, R302, R304). -/
theorem validate_unpackFrom {a : Word} {len : Nat} (hbytes : BytesFit s a.toNat len) (hslots : SlotsFit s rd count) :
    validate s.params (unpackFrom rd count a len) = none := by
  refine (validate_eq_none_iff _ _).mpr ⟨?_, ?_, rfl⟩
  · simpa [unpackFrom] using hslots
  · simpa [unpackFrom] using hbytes

/-- A command that writes slots and completes. -/
theorem writesSlots_of_exec (hexec : exec i s = .next ((s.writeSlots rd ps).complete 0 0)) (hcount : ps.length = count)
    (hval : ∀ k j, k < count → j < 256 → entry ps k j = val k j) : WritesSlots i s rd count 0 val :=
  ⟨_, ps, hexec, rfl, fun _ => rfl, hcount, Sparse.get_setRange s.pm rd ps, hval⟩

/-- A rejection sampler whose sessions have all sampled completes with their polynomials. -/
theorem sampleCmd_writesSlots (hexec : exec i s = sampleCmd i rd sl sampler mode msgs s)
    (hops : operandsOf i s.params s.argv = unpackFrom rd count s.argv.a0 sl.bytes) (hlen : seed.length = sl.bytes)
    (hseed : SeedHeld s s.argv.a0.toNat seed) (hbytes : BytesFit s s.argv.a0.toNat sl.bytes) (hslots : SlotsFit s rd count)
    (hsample : runSessions sampler mode (streamBudget s) (msgs seed) = .ok ps) (hcount : ps.length = count)
    (hval : ∀ k j, k < count → j < 256 → entry ps k j = val k j) : WritesSlots i s rd count 0 val := by
  refine writesSlots_of_exec ?_ hcount hval
  rw [hexec, sampleCmd, checked_of_valid (hops ▸ validate_unpackFrom hbytes hslots), ← hlen, withSeed_of_seedHeld hseed, hsample]

/-- The sessions of a vector's slots, each on its slot's stream. -/
theorem runSessions_slotMsgs {budget : Nat} {v : Args} {f : Nat → Poly}
    (hsample : ∀ k < count, sampler (stream mode seed (nonceOf v k) budget) = .ok (f k)) :
    runSessions sampler mode budget (slotMsgs count v.a1 seed) = .ok ((List.range count).map f) := by
  rw [runSessions_eq_ok, slotMsgs, List.forall₂_map_left_iff, List.forall₂_map_right_iff, List.forall₂_same]
  intro k hk
  rw [← stream_eq]
  exact hsample k (List.mem_range.mp hk)

theorem entry_map_range {f : Nat → Poly} {k : Nat} (hk : k < count) (j : Nat) :
    entry ((List.range count).map f) k j = (f k).coeff j :=
  entry_of_getElem? (by simp [hk]) j

/-- A vector sampler that accepts values one by one completes with the values that the beginnings of its slots' streams give. -/
theorem acceptanceSampler_writesSlots (hacc : AcceptanceSampler sampler accepted)
    (hexec : exec i s = sampleCmd i rd sl sampler mode (slotMsgs count s.argv.a1) s)
    (hops : operandsOf i s.params s.argv = unpackFrom rd count s.argv.a0 sl.bytes) (hlen : seed.length = sl.bytes)
    (hseed : SeedHeld s s.argv.a0.toNat seed) (hbytes : BytesFit s s.argv.a0.toNat sl.bytes) (hslots : SlotsFit s rd count)
    (hn : n ≤ 1008) (henough : ∀ k, k < count → 256 ≤ (accepted (stream mode seed (nonceOf s.argv k) n)).length) :
    WritesSlots i s rd count 0 fun k j => (accepted (stream mode seed (nonceOf s.argv k) n)).getD j 0 := by
  have hsample : runSessions sampler mode n (slotMsgs count s.argv.a1 seed) =
      .ok ((List.range count).map fun k => acceptedPoly (accepted (stream mode seed (nonceOf s.argv k) n))) :=
    runSessions_slotMsgs fun k hk => hacc.eq_ok_iff.mpr ⟨henough k hk, rfl⟩
  refine sampleCmd_writesSlots hexec hops hlen hseed hbytes hslots
    (hacc.prefixStable.runSessions_mono (hn.trans (samplerChunk_le_streamBudget s)) hsample) (by simp) fun k j hk hj => ?_
  rw [entry_map_range hk, hacc.coeff_eq_getD (henough k hk) hj]

end

/-- Settles O45: SUNIF samples by acceptance, from the candidates below Q. -/
theorem sampleUniform : Obligations.SampleUniform := by
  intro s v rd vl sl seed n hlatch hlen hseed hbytes hslots hn henough
  obtain rfl := State.argv_of_latch hlatch
  exact acceptanceSampler_writesSlots uniform_acceptanceSampler rfl rfl hlen hseed hbytes hslots hn henough

/-- Settles O46: SETA samples by acceptance, from the nibbles below 15. -/
theorem sampleEta : Obligations.SampleEta := by
  intro s v rd vl sl seed n hlatch hlen hseed hbytes hslots hn henough
  obtain rfl := State.argv_of_latch hlatch
  exact acceptanceSampler_writesSlots eta_acceptanceSampler rfl rfl hlen hseed hbytes hslots hn henough

/-! ## The gamma1 sampler (R211, R212) -/

/-- A coefficient of an unpacked polynomial, from its field (R230, R231). -/
theorem coeff_unpackPoly (w : Nat) (g : Int → Int) (bs : List Byte) {j : Nat} (hj : j < 256) :
    (unpackPoly w g bs).coeff j = Spec.low (g (field w bs j)) := by
  have hfield : ((unpackFields w bs).map fun (f : Nat) => low32 (g f))[j]? = some (low32 (g (field w bs j))) := by
    rw [List.getElem?_map, getElem?_unpackFields, if_pos hj, bytesToNat_eq_value]
    rfl
  rw [Poly.coeff, unpackPoly, List.getD_eq_getElem?_getD, hfield, Option.getD_some, low32_toInt]

theorem field_lt (w : Nat) (bs : List Byte) (j : Nat) : field w bs j < 2 ^ w := Nat.mod_lt _ (Nat.two_pow_pos w)

/-- A z coefficient fits a word, so it is GAMMA1 less its field exactly. -/
theorem coeff_unpackZ (bs : List Byte) {j : Nat} (hj : j < 256) : (unpackZ bs).coeff j = 524288 - (field 20 bs j : Int) := by
  have hfield : field 20 bs j < 1048576 := field_lt 20 bs j
  exact (coeff_unpackPoly 20 (fun f => 524288 - f) bs hj).trans (low_of_fits (by omega) (by omega))

/-- Settles O47: each slot unpacks the first 640 bytes of its stream, with no rejection. -/
theorem sampleGamma1 : Obligations.SampleGamma1 := by
  intro s v rd vl sl seed hlatch hlen hseed hbytes hslots
  obtain rfl := State.argv_of_latch hlatch
  have hvalid : validate s.params (operandsOf (.sgamma1 rd vl sl) s.params s.argv) = none := validate_unpackFrom hbytes hslots
  refine writesSlots_of_exec (ps := (slotMsgs vl.count s.argv.a1 seed).map gamma1Poly) ?_ (by simp) fun k j hk hj => ?_
  · change checked _ s (withBytes s _ _ _) = _
    rw [checked_of_valid hvalid, withBytes_of_some (getRange_of_bytesHold hlen hseed)]
  · rw [slotMsgs, List.map_map, entry_map_range hk, stream_eq]
    exact coeff_unpackZ _ hj

/-! ## The challenge sampler (R213 to R215) -/

section

variable {bs : List Byte} {n : Nat} {signs : BitVec 64} {c r : List Word} {p : Poly}

/-- One coefficient placed (R215): c[i] takes c[b], then c[b] takes the sign. -/
def placeSign (i b : Nat) (signs : BitVec 64) (c : List Word) : List Word :=
  (c.set i (c.getD b 0)).set b (if signs.getLsbD 0 then low32 (-1) else 1)

/-- One pass of the statement's loop, with the sign word, the bytes left and the coefficients. -/
def challengeStep (st : Nat × List Byte × List Int) (k : Nat) : Option (Nat × List Byte × List Int) :=
  (drawByte (196 + k) st.2.1).map fun d =>
    (st.1 / 2, d.2, (st.2.2.set (196 + k) (st.2.2.getD d.1 0)).set d.1 (1 - 2 * ((st.1 % 2 : Nat) : Int)))

theorem challengeLoop_eq_foldlM (bs : List Byte) : challengeLoop bs =
    ((List.range' 0 60).foldlM challengeStep (value (bs.take 8), bs.drop 8, List.replicate 256 0)).map fun st => st.2.2 := by
  rw [← List.range_eq_range']
  rfl

theorem placeSigns_cons_of_le {b : Byte} (hb : b.toNat ≤ 255 - n) :
    placeSigns (b :: bs) (n + 1) signs c = placeSigns bs n (signs >>> 1) (placeSign (255 - n) b.toNat signs c) := by
  rw [placeSigns, if_pos hb]
  rfl

theorem placeSigns_cons_of_not_le {b : Byte} (hb : ¬ b.toNat ≤ 255 - n) :
    placeSigns (b :: bs) (n + 1) signs c = placeSigns bs (n + 1) signs c := by
  rw [placeSigns, if_neg hb]

/-- The bytes above the index are passed over until one is drawn (R215). -/
theorem placeSigns_succ (bs : List Byte) (n : Nat) (signs : BitVec 64) (c : List Word) :
    (placeSigns bs (n + 1) signs c).toOption = (drawByte (255 - n) bs).bind fun d =>
      (placeSigns d.2 n (signs >>> 1) (placeSign (255 - n) d.1 signs c)).toOption := by
  induction bs with
  | nil => rfl
  | cons b bs ih =>
    by_cases hb : b.toNat ≤ 255 - n
    · rw [placeSigns_cons_of_le hb, drawByte, if_pos hb, Option.bind_some]
    · rw [placeSigns_cons_of_not_le hb, drawByte, if_neg hb, ih]

theorem ints_placeSign (i b : Nat) (signs : BitVec 64) (c : List Word) : ints (placeSign i b signs c) =
    ((ints c).set i ((ints c).getD b 0)).set b (1 - 2 * ((signs.toNat % 2 : Nat) : Int)) := by
  have hsign : (if signs.getLsbD 0 then low32 (-1) else 1).toInt = 1 - 2 * ((signs.toNat % 2 : Nat) : Int) := by
    obtain heven | hodd := Nat.mod_two_eq_zero_or_one signs.toNat
    · simp [BitVec.getLsbD, heven]
    · simp [BitVec.getLsbD, hodd, low32]
  rw [placeSign, ints, List.map_set, List.map_set, hsign, ints_getD]
  rfl

/-- The model's loop on the stream's bytes is the statement's over the indices, draw by draw. -/
theorem placeSigns_eq_foldlM (hn : n ≤ 60) (bs : List Byte) (signs : BitVec 64) (c : List Word) :
    (placeSigns bs n signs c).toOption.map ints =
      ((List.range' (60 - n) n).foldlM challengeStep (signs.toNat, bs, ints c)).map fun st => st.2.2 := by
  induction n generalizing bs signs c with
  | zero => cases bs <;> rfl
  | succ n ih =>
    have hindex : 196 + (60 - (n + 1)) = 255 - n := by omega
    have hnext : 60 - (n + 1) + 1 = 60 - n := by omega
    have hshift : (signs >>> 1).toNat = signs.toNat / 2 := by simp [Nat.shiftRight_eq_div_pow]
    rw [placeSigns_succ, List.range'_succ, List.foldlM_cons, challengeStep, hindex, hnext]
    cases drawByte (255 - n) bs with
    | none => rfl
    | some d =>
      change (placeSigns d.2 n _ _).toOption.map ints = _
      rw [ih (by omega), hshift, ints_placeSign]
      rfl

/-- What the loop keeps with n coefficients still to place (R215, R217): 0 and the signs alone, nothing at the indices to come, and one
nonzero coefficient for each that is placed. -/
structure SignsPlaced (n : Nat) (c : List Word) : Prop where
  size : c.length = 256
  ternary : ∀ x ∈ c, x = 0 ∨ x = 1 ∨ x = low32 (-1)
  unplaced : ∀ i, 256 - n ≤ i → c.getD i 0 = 0
  weight : c.countP (fun x => decide (x ≠ 0)) + n = 60

theorem SignsPlaced.start : SignsPlaced 60 (List.replicate 256 0) where
  size := List.length_replicate
  ternary x hx := .inl (List.eq_of_mem_replicate hx)
  unplaced i _ := by rw [List.getD_eq_getElem?_getD, List.getElem?_replicate]; split <;> rfl
  weight := by rw [List.countP_replicate]; rfl

theorem sign_ne_zero (signs : BitVec 64) : (if signs.getLsbD 0 then low32 (-1) else 1) ≠ (0 : Word) := by
  split <;> decide

/-- A nonzero coefficient moved to an index that held 0 counts once, and the one it leaves behind is nonzero again. -/
theorem countP_placeSign {i b : Nat} (hi : i < c.length) (hb : b < c.length) (hzero : c.getD i 0 = 0) :
    (placeSign i b signs c).countP (fun x => decide (x ≠ 0)) = c.countP (fun x => decide (x ≠ 0)) + 1 := by
  have hib : (c.set i (c.getD b 0))[b]'(by simpa using hb) = c.getD b 0 := by
    rw [List.getElem_set]
    split
    · rfl
    · exact (List.getD_eq_getElem _ _ hb).symm
  rw [List.getD_eq_getElem _ _ hi] at hzero
  rw [placeSign, List.countP_set (by simpa using hb), List.countP_set hi, hib, hzero,
    decide_eq_true (sign_ne_zero signs)]
  simp

/-- Placing a sign moves c[b] to the index i, which held 0, and makes c[b] nonzero. -/
theorem SignsPlaced.placeSign {b : Nat} (h : SignsPlaced (n + 1) c) (hb : b ≤ 255 - n) (signs : BitVec 64) :
    SignsPlaced n (placeSign (255 - n) b signs c) := by
  have hweight := h.weight
  have hi : 255 - n < c.length := by have := h.size; omega
  have hbc : b < c.length := hb.trans_lt hi
  refine ⟨?_, fun x hx => ?_, fun j hj => ?_, ?_⟩
  · rw [Machine.placeSign, List.length_set, List.length_set, h.size]
  · obtain hx | rfl := List.mem_or_eq_of_mem_set hx
    · obtain hx | rfl := List.mem_or_eq_of_mem_set hx
      · exact h.ternary x hx
      · rw [List.getD_eq_getElem _ _ hbc]
        exact h.ternary _ (List.getElem_mem hbc)
    · split
      · exact .inr (.inr rfl)
      · exact .inr (.inl rfl)
  · rw [Machine.placeSign, List.getD_eq_getElem?_getD, List.getElem?_set_ne (by omega), List.getElem?_set_ne (by omega),
      ← List.getD_eq_getElem?_getD]
    exact h.unplaced j (by omega)
  · rw [countP_placeSign hi hbc (h.unplaced _ (by omega))]
    omega

/-- The loop ends with every sign placed. -/
theorem SignsPlaced.of_placeSigns (h : SignsPlaced n c) (hr : placeSigns bs n signs c = .ok r) : SignsPlaced 0 r := by
  induction bs, n, signs, c using placeSigns.induct with
  | case1 bs signs c =>
    rw [placeSigns] at hr
    cases hr
    exact h
  | case2 n signs c => cases hr
  | case3 b bs n signs c hb ih =>
    rw [placeSigns_cons_of_le hb] at hr
    exact ih (h.placeSign hb signs) hr
  | case4 b bs n signs c hb ih =>
    rw [placeSigns_cons_of_not_le hb] at hr
    exact ih h hr

/-- The challenge's polynomial is what the loop leaves on the bytes after the sign word (R214, R215). -/
theorem challengeSample_eq_ok_iff :
    challengeSample bs = .ok p ↔ placeSigns (bs.drop 8) 60 (signWord bs) (List.replicate 256 0) = .ok p.coeffs := by
  rw [challengeSample]
  cases hplace : placeSigns (bs.drop 8) 60 (signWord bs) (List.replicate 256 0) with
  | error e => simp
  | ok c =>
    have hsize : c.length = Config.polyLen := (SignsPlaced.start.of_placeSigns hplace).size
    simp only [Poly.ofList, dif_pos hsize, Except.ok.injEq]
    constructor <;> rintro rfl <;> rfl

theorem signWord_toNat (bs : List Byte) : (signWord bs).toNat = value (bs.take 8) := by
  have hbound : bytesToNat (bs.take 8) < 2 ^ 64 :=
    (bytesToNat_lt _).trans_le (Nat.pow_le_pow_right (by decide) (by rw [List.length_take]; omega))
  rw [signWord, BitVec.toNat_ofNat, Nat.mod_eq_of_lt hbound, bytesToNat_eq_value]

/-- The challenge's polynomial has the coefficients that the statement's loop leaves, where it ends. -/
theorem challengeLoop_eq_some_iff {l : List Int} :
    challengeLoop bs = some l ↔ ∃ p, challengeSample bs = .ok p ∧ ints p.coeffs = l := by
  have hstart : ints (List.replicate 256 0) = List.replicate 256 0 := List.map_replicate
  simp only [challengeSample_eq_ok_iff]
  rw [challengeLoop_eq_foldlM, ← signWord_toNat, ← hstart, ← placeSigns_eq_foldlM le_rfl]
  cases hplace : placeSigns (bs.drop 8) 60 (signWord bs) (List.replicate 256 0) with
  | error e => simp [Except.toOption]
  | ok c =>
    have hsize : c.length = Config.polyLen := (SignsPlaced.start.of_placeSigns hplace).size
    simp only [Except.toOption, Option.map_some, Option.some.injEq, Except.ok.injEq]
    constructor
    · rintro rfl
      exact ⟨⟨c, hsize⟩, rfl, rfl⟩
    · rintro ⟨p, rfl, rfl⟩
      rfl

/-- The loop draws from the front, so more of the stream changes nothing. -/
theorem placeSigns_append (hr : placeSigns bs n signs c = .ok r) (cs : List Byte) : placeSigns (bs ++ cs) n signs c = .ok r := by
  induction bs, n, signs, c using placeSigns.induct with
  | case1 bs signs c =>
    rw [placeSigns] at hr ⊢
    exact hr
  | case2 n signs c => cases hr
  | case3 b bs n signs c hb ih =>
    rw [placeSigns_cons_of_le hb] at hr
    rw [List.cons_append, placeSigns_cons_of_le hb]
    exact ih hr
  | case4 b bs n signs c hb ih =>
    rw [placeSigns_cons_of_not_le hb] at hr
    rw [List.cons_append, placeSigns_cons_of_not_le hb]
    exact ih hr

theorem challengeSample_prefixStable : PrefixStable challengeSample := by
  intro bs cs p hpre hp
  rw [challengeSample_eq_ok_iff] at hp ⊢
  obtain ⟨rest, rfl⟩ := hpre
  have hlen : 8 ≤ bs.length := by
    by_contra hshort
    rw [List.drop_eq_nil_of_le (by omega)] at hp
    cases hp
  rw [signWord, List.take_append_of_le_length hlen, List.drop_append_of_le_length hlen]
  exact placeSigns_append hp rest

end

/-- Settles O48: the loop that ends within n bytes ends alike within the turn's draw, and leaves the statement's coefficients. -/
theorem sampleChallenge : Obligations.SampleChallenge := by
  intro s v rd sl seed n c hlatch hlen hseed hbytes hslots hn hloop
  obtain rfl := State.argv_of_latch hlatch
  obtain ⟨p, hp, rfl⟩ := challengeLoop_eq_some_iff.mp hloop
  have hsample : runSessions challengeSample .shake256 n [seed] = .ok [p] := runSessions_eq_ok.mpr (.cons hp .nil)
  refine sampleCmd_writesSlots (msgs := fun seed => [seed]) rfl rfl hlen hseed hbytes hslots
    (challengeSample_prefixStable.runSessions_mono (hn.trans (samplerChunk_le_streamBudget s)) hsample) rfl fun k j hk hj => ?_
  obtain rfl := Nat.lt_one_iff.mp hk
  rw [entry_cons_zero, ints_getD]
  rfl

/-! ## Ranges (R217) -/

theorem Poly.coeff_mem (p : Poly) {j : Nat} (hj : j < 256) : ∃ x ∈ p.coeffs, p.coeff j = x.toInt :=
  ⟨_, List.getElem_mem (by rwa [p.size]), p.coeff_eq_getElem (by rwa [p.size])⟩

/-- The weight of a polynomial, counted index by index. -/
theorem countP_coeff_ne_zero (p : Poly) : (List.range 256).countP (fun j => decide (p.coeff j ≠ 0)) =
    p.coeffs.countP fun x => decide (x ≠ 0) := by
  have hcoeffs : p.coeffs = (List.range 256).map fun j => p.coeffs.getD j 0 := by
    refine List.ext_getElem (by simp [p.size]) fun j hj _ => ?_
    rw [List.getElem_map, List.getElem_range, List.getD_eq_getElem _ _ hj]
  have hzero (j : Nat) : p.coeff j ≠ 0 ↔ p.coeffs.getD j 0 ≠ 0 := by
    rw [Poly.coeff, ne_eq, ne_eq, ← BitVec.toInt_inj]
    rfl
  rw [hcoeffs, List.countP_map]
  exact List.countP_congr fun j _ => by simp [hzero]

/-- A challenge has 60 coefficients 1 or -1, and the rest 0 (R217). -/
theorem challengeSample_signsPlaced {bs : List Byte} {p : Poly} (hp : challengeSample bs = .ok p) : SignsPlaced 0 p.coeffs :=
  SignsPlaced.start.of_placeSigns (challengeSample_eq_ok_iff.mp hp)

/-- Settles O49: accepted values are in their ranges, a 20-bit field is below 2^20, and the challenge's loop places 60 signs. -/
theorem samplerRanges : Obligations.SamplerRanges := by
  intro bs p
  refine ⟨fun hp j hj => ?_, fun hp j hj => ?_, ?_, fun hp => ⟨fun j hj => ?_, ?_⟩⟩
  · obtain ⟨hlo, hhi⟩ := uniformAccepted_range bs _ (uniform_acceptanceSampler.coeff_mem hp hj)
    omega
  · exact etaAccepted_range bs _ (eta_acceptanceSampler.coeff_mem hp hj)
  · rintro rfl j hj
    have hfield := field_lt 20 (xofPrefix .shake256 bs 640) j
    have hcoeff : (gamma1Poly bs).coeff j = 524288 - (field 20 (xofPrefix .shake256 bs 640) j : Int) := coeff_unpackZ _ hj
    omega
  · obtain ⟨x, hx, hcoeff⟩ := p.coeff_mem hj
    obtain rfl | rfl | rfl := (challengeSample_signsPlaced hp).ternary x hx
    · exact .inl hcoeff
    · exact .inr (.inl hcoeff)
    · exact .inr (.inr hcoeff)
  · rw [countP_coeff_ne_zero]
    exact (challengeSample_signsPlaced hp).weight

/-! ## Turns (R67, R218, R341) -/

section

variable {i : Instr} {s t : State} {x : XofSession} {n : Nat}

/-- The same state with session x open. -/
def State.openSession (s : State) (x : XofSession) : State := { s with xof := some x }

/-- The turn with session x open may draw no less than the turn with none. -/
theorem streamBudget_le_openSession (hclosed : s.xof = none) (x : XofSession) : streamBudget s ≤ streamBudget (s.openSession x) := by
  simp [streamBudget, State.openSession, hclosed]

theorem withSeed_openSession (s : State) (x : XofSession) (n : Nat) (k : List Byte → Result) :
    withSeed (s.openSession x) n k = k (x.msg.take n) := rfl

/-- A seed that BM holds and that begins the session's message is the one a command goes on with (R67, R203). -/
theorem take_msg_of_getRange {a : Nat} {seed : List Byte} (hwf : Memory.wf s.params s.bm)
    (hmsg : ∀ k, k < n → x.msg[k]? = s.bm.get (a + k)) (hseed : s.bm.getRange a n = some seed) : x.msg.take n = seed := by
  obtain ⟨hlen, hget⟩ := (Sparse.getRange_eq_some_iff hwf.1).mp hseed
  refine List.ext_getElem? fun k => ?_
  rw [List.getElem?_take]
  split
  · rename_i hk
    rw [hmsg k hk, hget k hk]
  · rw [List.getElem?_eq_none (by omega)]

/-- A command whose effect after the seed goes alike with session x open goes alike as a whole, where x begins with the seed. -/
theorem checked_withSeed_openSession {k k' : List Byte → Result} (hclosed : s.xof = none)
    (h : checked i s (withSeed s n k) = .next t)
    (hmsg : ∀ seed, s.bm.getRange s.argv.a0.toNat n = some seed → x.msg.take n = seed)
    (hk : ∀ seed, k seed = .next t → k' seed = .next t) :
    checked i (s.openSession x) (withSeed (s.openSession x) n k') = .next t := by
  obtain ⟨e, hv, rfl⟩ | ⟨hv, h⟩ := checked_eq_next h
  · exact checked_of_invalid (s := s.openSession x) hv
  · rw [withSeed_of_closed hclosed] at h
    obtain ⟨seed, hseed, -, h⟩ := withBytes_eq_next h
    rw [checked_of_valid (s := s.openSession x) hv, withSeed_openSession, hmsg seed hseed]
    exact hk seed h

/-- A rejection sampler that ends on its first turn ends alike with a session open. -/
theorem sampleCmd_openSession {rd : Nat} {sl : SeedLen} {sampler : List Byte → Except Shortage Poly} {mode : XofMode}
    {msgs : List Byte → List (List Byte)} (hstable : PrefixStable sampler) (hclosed : s.xof = none)
    (h : sampleCmd i rd sl sampler mode msgs s = .next t) (hdone : t.xof = none)
    (hmsg : ∀ seed, s.bm.getRange s.argv.a0.toNat sl.bytes = some seed → x.msg.take sl.bytes = seed) :
    sampleCmd i rd sl sampler mode msgs (s.openSession x) = .next t := by
  refine checked_withSeed_openSession hclosed h hmsg fun seed h => ?_
  split at h
  · cases h
    cases hdone
  · rename_i ps hps
    cases h
    rw [hstable.runSessions_mono (streamBudget_le_openSession hclosed x) hps]
    rfl

/-- MATVEC, likewise: it reads its source vector again (R67). -/
theorem execMatvec_openSession {rd ra : Nat} {sl : SeedLen} (hclosed : s.xof = none) (h : execMatvec rd ra sl s = .next t)
    (hdone : t.xof = none)
    (hmsg : ∀ seed, s.bm.getRange s.argv.a0.toNat sl.bytes = some seed → x.msg.take sl.bytes = seed) :
    execMatvec rd ra sl (s.openSession x) = .next t := by
  refine checked_withSeed_openSession hclosed h hmsg fun rho h => ?_
  obtain ⟨vec, hvec, -, h⟩ := withSlots_eq_next h
  split at h
  · cases h
    cases hdone
  · rename_i entries hentries
    cases h
    rw [withSlots_of_some (s := s.openSession x) hvec,
      uniform_acceptanceSampler.prefixStable.runSessions_mono (streamBudget_le_openSession hclosed x) hentries]
    rfl

end

/-- Settles O50: each sampler's totality, and that a first turn's polynomials are those of any longer beginning of the streams. -/
theorem samplerTurnsAgree : Obligations.SamplerTurnsAgree := by
  refine ⟨fun bs => ⟨uniform_acceptanceSampler.exists_ok_iff, eta_acceptanceSampler.exists_ok_iff, ?_⟩, ?_⟩
  · simp [challengeLoop_eq_some_iff]
  · intro i s t v x hi hlatch hwf hclosed hexec hdone hmsg
    obtain rfl := State.argv_of_latch hlatch
    have htake {n : Nat} (hmem : (s.argv.a0.toNat, n) ∈ Spec.bytesIn s.params s.argv i) :
        ∀ seed, s.bm.getRange s.argv.a0.toNat n = some seed → x.msg.take n = seed :=
      fun seed => take_msg_of_getRange hwf (hmsg _ hmem)
    cases i with
    | matvec rd ra sl => exact execMatvec_openSession hclosed hexec hdone (htake (List.mem_singleton_self _))
    | sunif rd vl sl =>
      exact sampleCmd_openSession uniform_acceptanceSampler.prefixStable hclosed hexec hdone (htake (List.mem_singleton_self _))
    | seta rd vl sl =>
      exact sampleCmd_openSession eta_acceptanceSampler.prefixStable hclosed hexec hdone (htake (List.mem_singleton_self _))
    | schal rd sl =>
      exact sampleCmd_openSession challengeSample_prefixStable hclosed hexec hdone (htake (List.mem_singleton_self _))
    | _ => cases hi

end Sys2Proof.Machine

/-! # Bit packing (O52, O53, O54)

A pack command writes the concatenation of its slots' packed polynomials, and an unpack command the polynomials of the pieces of its
byte string, so one polynomial's fields settle each format. A format's two maps, from coefficients to fields and back, undo each other
(`FieldMap`). -/

namespace Sys2Proof.Machine

open Spec (low field slice entry packedField Packed)
open Spec (SlotsHold BytesHold SlotsFit BytesFit WritesSlots WritesBytes)

/-! ## Fields of one polynomial (R230 to R232) -/

section

variable {w j k n : Nat} {toField toCoeff : Int → Int} {bs : List Byte} {p : Poly} {ps : List Poly}

theorem lowField_eq_emod (w : Nat) (x : Int) : (lowField w x : Int) = x % 2 ^ w := by
  rw [lowField, BitVec.toNat_ofInt, Int.toNat_of_nonneg (Int.emod_nonneg _ (by positivity))]
  norm_cast

theorem lowField_lt (w : Nat) (x : Int) : lowField w x < 2 ^ w := (BitVec.ofInt w x).isLt

theorem lowField_of_lt {f : Nat} (hf : f < 2 ^ w) : lowField w f = f := by
  have hmod : (lowField w f : Int) = f := by
    rw [lowField_eq_emod]
    exact Int.emod_eq_of_lt (by positivity) (by exact_mod_cast hf)
  exact_mod_cast hmod

/-- Field j, in the statements' words, is entry j of the unpacked fields. -/
theorem getElem?_unpackFields_eq_field (w : Nat) (bs : List Byte) (hj : j < 256) : (unpackFields w bs)[j]? = some (field w bs j) := by
  rw [getElem?_unpackFields, if_pos hj, bytesToNat_eq_value]
  rfl

/-- A field of a packed polynomial is the low bits of what the field map gives. -/
theorem field_packPoly (w : Nat) (toField : Int → Int) (p : Poly) (hj : j < 256) :
    (field w (packPoly w toField p) j : Int) = toField (p.coeff j) % 2 ^ w := by
  have hfields : unpackFields w (packPoly w toField p) = p.coeffs.map fun c => lowField w (toField c.toInt) := by
    refine unpackFields_packFields (by rw [List.length_map, p.size]) fun f hf => ?_
    obtain ⟨c, -, rfl⟩ := List.mem_map.mp hf
    exact lowField_lt w _
  have hget : (unpackFields w (packPoly w toField p))[j]? = some (lowField w (toField (p.coeff j))) := by
    rw [hfields, List.getElem?_map, List.getElem?_eq_getElem (by rwa [p.size]), Option.map_some, p.coeff_eq_getElem]
  rw [← lowField_eq_emod, Option.some.inj ((getElem?_unpackFields_eq_field w _ hj).symm.trans hget)]

/-- A polynomial is its 256 coefficients. -/
theorem Poly.ext_coeff {p r : Poly} (h : ∀ j < 256, p.coeff j = r.coeff j) : p = r := by
  have hcoeffs : p.coeffs = r.coeffs := by
    refine List.ext_getElem (by rw [p.size, r.size]) fun j hp hr => ?_
    rw [← BitVec.toInt_inj, ← p.coeff_eq_getElem hp, ← r.coeff_eq_getElem hr]
    exact h j (by rwa [p.size] at hp)
  cases p
  cases r
  congr

/-! ## The formats (R231, R248) -/

/-- A format's maps between coefficients and fields of w bits: each undoes the other, and the coefficient of a field fits a word. -/
structure FieldMap (w : Nat) (toField toCoeff : Int → Int) : Prop where
  toCoeff_toField : ∀ a, toCoeff (toField a) = a
  toField_toCoeff : ∀ f, toField (toCoeff f) = f
  fits : ∀ f, 0 ≤ f → f < 2 ^ w → -2147483648 ≤ toCoeff f ∧ toCoeff f < 2147483648

theorem t1_fieldMap : FieldMap 10 (fun a => a) (fun f => f) := ⟨fun _ => rfl, fun _ => rfl, fun _ _ _ => by omega⟩

theorem t0_fieldMap : FieldMap 13 (fun a => 4096 - a) (fun f => 4096 - f) :=
  ⟨fun _ => by omega, fun _ => by omega, fun _ _ _ => by omega⟩

theorem eta_fieldMap : FieldMap 3 (fun a => 2 - a) (fun f => 2 - f) :=
  ⟨fun _ => by omega, fun _ => by omega, fun _ _ _ => by omega⟩

theorem z_fieldMap : FieldMap 20 (fun a => 524288 - a) (fun f => 524288 - f) :=
  ⟨fun _ => by omega, fun _ => by omega, fun _ _ _ => by omega⟩

theorem FieldMap.low_toCoeff (h : FieldMap w toField toCoeff) {f : Nat} (hf : f < 2 ^ w) : low (toCoeff f) = toCoeff f := by
  obtain ⟨hlo, hhi⟩ := h.fits f (by positivity) (by exact_mod_cast hf)
  exact low_of_fits hlo hhi

theorem FieldMap.coeff_unpackPoly (h : FieldMap w toField toCoeff) (bs : List Byte) (hj : j < 256) :
    (unpackPoly w toCoeff bs).coeff j = toCoeff (field w bs j) := by
  rw [Machine.coeff_unpackPoly w toCoeff bs hj, h.low_toCoeff (field_lt w bs j)]

/-- Unpacking undoes packing where every field fits its bits. -/
theorem FieldMap.unpackPoly_packPoly (h : FieldMap w toField toCoeff)
    (hp : ∀ j < 256, 0 ≤ toField (p.coeff j) ∧ toField (p.coeff j) < 2 ^ w) :
    unpackPoly w toCoeff (packPoly w toField p) = p := by
  refine Poly.ext_coeff fun j hj => ?_
  obtain ⟨hlo, hhi⟩ := hp j hj
  rw [h.coeff_unpackPoly _ hj, field_packPoly w toField p hj, Int.emod_eq_of_lt hlo hhi, h.toCoeff_toField]

/-- Packing undoes unpacking of every byte string of the format's length. -/
theorem FieldMap.packPoly_unpackPoly (h : FieldMap w toField toCoeff) (hlen : bs.length = packedBytes w) :
    packPoly w toField (unpackPoly w toCoeff bs) = bs := by
  have hfields : ((unpackPoly w toCoeff bs).coeffs.map fun c => lowField w (toField c.toInt)) = unpackFields w bs := by
    rw [unpackPoly, List.map_map]
    conv_rhs => rw [← List.map_id (unpackFields w bs)]
    refine List.map_congr_left fun f hf => ?_
    have hf : f < 2 ^ w := digits_lt hf
    rw [Function.comp_apply, low32_toInt, h.low_toCoeff hf, h.toField_toCoeff, lowField_of_lt hf, id]
  rw [packPoly, hfields, packFields_unpackFields hlen]

end

/-- Settles O54: each format's maps undo each other, and its coefficients in range have fields that fit. -/
theorem packRoundTrip : Obligations.PackRoundTrip := by
  refine fun p bs => ⟨fun hp => ?_, fun hp => ?_, fun hp => ?_, fun hp => ?_, t1_fieldMap.packPoly_unpackPoly,
    t0_fieldMap.packPoly_unpackPoly, eta_fieldMap.packPoly_unpackPoly, z_fieldMap.packPoly_unpackPoly⟩
  · exact t1_fieldMap.unpackPoly_packPoly fun j hj => by have := hp j hj; omega
  · exact t0_fieldMap.unpackPoly_packPoly fun j hj => by have := hp j hj; omega
  · exact eta_fieldMap.unpackPoly_packPoly fun j hj => by have := hp j hj; omega
  · exact z_fieldMap.unpackPoly_packPoly fun j hj => by have := hp j hj; omega

/-! ## The pack and unpack commands (R230 to R241) -/

section

variable {w j k n rd ra len : Nat} {toField toCoeff : Int → Int} {bs : List Byte} {ps : List Poly} {s : State} {i : Instr}

/-- A source in PM and a destination in BM pass the checks where both fit (R301, R302, R304). -/
theorem validate_packTo {a : Word} (hslots : SlotsFit s ra n) (hbytes : BytesFit s a.toNat len) :
    validate s.params (packTo ra n a len) = none := by
  refine (validate_eq_none_iff _ _).mpr ⟨?_, ?_, rfl⟩
  · simpa [packTo] using hslots
  · simpa [packTo] using hbytes

/-- A command that writes bytes and completes. -/
theorem writesBytes_of_exec {a : Nat} {r : Word} (hexec : exec i s = .next ((s.writeBytes a bs).complete r 0)) :
    WritesBytes i s a r bs :=
  ⟨_, hexec, rfl, fun _ => rfl, Sparse.get_setRange s.bm a bs⟩

/-- Polynomial k of a concatenation of packed polynomials. -/
theorem slice_flatMap_packPoly (w : Nat) (toField : Int → Int) (hk : k < ps.length) :
    slice (ps.flatMap (packPoly w toField)) (32 * w * k) (32 * w) = packPoly w toField ps[k] := by
  have hpiece : (pieces (packedBytes w) ps.length (ps.flatMap (packPoly w toField)))[k]? = some (packPoly w toField ps[k]) := by
    rw [pieces_flatMap _ ps rfl fun p _ => packPoly_length w toField p, List.getElem?_map, List.getElem?_eq_getElem hk]
    rfl
  rw [getElem?_pieces, if_pos hk] at hpiece
  exact Option.some.inj hpiece

theorem packed_flatMap_packPoly (w : Nat) (toField : Int → Int) (ps : List Poly) :
    Packed (ps.flatMap (packPoly w toField)) ps.length w fun k j => toField (entry ps k j) := by
  refine ⟨flatMap_length _ ps fun p _ => packPoly_length w toField p, fun k j hk hj => ?_⟩
  rw [slice_flatMap_packPoly w toField hk, field_packPoly w toField _ hj, ← entry_eq_coeff hk]

/-- A pack command of a format, on written slots: it completes with the packed polynomials. -/
theorem packCmd_writesBytes (toField : Int → Int) (hexec : exec i s = packCmd i ra n (packPoly w toField) s)
    (hops : operandsOf i s.params s.argv = packTo ra n s.argv.a0 (n * packedBytes w)) (hlen : ps.length = n)
    (hold : SlotsHold s ra ps) (hslots : SlotsFit s ra n) (hbytes : BytesFit s s.argv.a0.toNat (n * (32 * w))) :
    ∃ bs, Packed bs n w (fun k j => toField (entry ps k j)) ∧ WritesBytes i s s.argv.a0.toNat 0 bs := by
  refine ⟨ps.flatMap (packPoly w toField), hlen ▸ packed_flatMap_packPoly w toField ps, writesBytes_of_exec ?_⟩
  rw [hexec, packCmd, checked_of_valid (hops ▸ validate_packTo hslots hbytes), withSlots_of_some (getRange_of_slotsHold hlen hold)]

theorem entry_unpackVec (unpack : List Byte → Poly) (bs : List Byte) (hk : k < n) (j : Nat) :
    entry (unpackVec len n unpack bs) k j = (unpack (slice bs (len * k) len)).coeff j :=
  entry_of_getElem? (by rw [unpackVec, List.getElem?_map, getElem?_pieces, if_pos hk]; rfl) j

/-- An unpack command of a format, on written bytes: it completes with the coefficient of each field. -/
theorem FieldMap.unpackCmd_writesSlots (h : FieldMap w toField toCoeff)
    (hexec : exec i s = unpackCmd i rd n (packedBytes w) (unpackPoly w toCoeff) s)
    (hops : operandsOf i s.params s.argv = unpackFrom rd n s.argv.a0 (n * packedBytes w)) (hold : BytesHold s s.argv.a0.toNat bs)
    (hbytes : BytesFit s s.argv.a0.toNat bs.length) (hslots : SlotsFit s rd n) (hlen : bs.length = n * packedBytes w) :
    WritesSlots i s rd n 0 fun k j => toCoeff (packedField w bs k j) := by
  refine writesSlots_of_exec (ps := unpackVec (packedBytes w) n (unpackPoly w toCoeff) bs) ?_ (unpackVec_length ..)
    fun k j hk hj => ?_
  · rw [hexec, unpackCmd, checked_of_valid (hops ▸ validate_unpackFrom (hlen ▸ hbytes) hslots),
      withBytes_of_some (getRange_of_bytesHold hlen hold)]
  · rw [entry_unpackVec _ bs hk, h.coeff_unpackPoly _ hj]
    rfl

end

/-- Settles O52: each packer concatenates its slots' packed polynomials. -/
theorem packFormats : Obligations.PackFormats := by
  intro s v ra vl ps hlatch hlen hold hslots
  obtain rfl := State.argv_of_latch hlatch
  simp only [List.forall_mem_cons, List.not_mem_nil, false_implies, implies_true, and_true]
  exact ⟨packCmd_writesBytes (fun a => a) rfl rfl hlen hold hslots, packCmd_writesBytes (fun a => 4096 - a) rfl rfl hlen hold hslots,
    packCmd_writesBytes (fun a => 2 - a) rfl rfl hlen hold hslots, packCmd_writesBytes (fun a => 524288 - a) rfl rfl hlen hold hslots,
    packCmd_writesBytes (fun a => a) rfl rfl hlen hold hslots⟩

/-- Settles O53: each unpacker takes its byte string piece by piece, and a field's coefficient fits a word. -/
theorem unpackFormats : Obligations.UnpackFormats := by
  intro s v rd vl bs hlatch hold hbytes hslots
  obtain rfl := State.argv_of_latch hlatch
  simp only [List.forall_mem_cons, List.not_mem_nil, false_implies, implies_true, and_true]
  exact ⟨t1_fieldMap.unpackCmd_writesSlots rfl rfl hold hbytes hslots, t0_fieldMap.unpackCmd_writesSlots rfl rfl hold hbytes hslots,
    eta_fieldMap.unpackCmd_writesSlots rfl rfl hold hbytes hslots, z_fieldMap.unpackCmd_writesSlots rfl rfl hold hbytes hslots⟩

end Sys2Proof.Machine

/-! # The hint table (O55, O56)

The statement's loops write the table index by index and count by count, so after each row it is the table of the rows so far
(`hintTable`); and they read it row by row, as the model's recursion over the counts does. -/

namespace Sys2Proof.Machine

open Spec (entry numbers weight8 packHintLoop unpackHintLoop)

/-! ## The weight and the indices of a hint vector (R243, R244) -/

section

variable {h : List Poly}

/-- The indices of the nonzero entries of a list, counted from its start. -/
theorem hintIndicesFrom_eq_map (j : Nat) (cs : List Word) :
    hintIndicesFrom j cs = ((List.range cs.length).filter fun d => decide (signedAt cs d ≠ 0)).map (j + ·) := by
  induction cs generalizing j with
  | nil => rfl
  | cons c cs ih =>
    have hhead : signedAt (c :: cs) 0 ≠ 0 ↔ c ≠ 0 := by
      rw [ne_eq, ne_eq, ← BitVec.toInt_inj]
      rfl
    have htail (d : Nat) : signedAt (c :: cs) (d + 1) = signedAt cs d := rfl
    rw [hintIndicesFrom, ih, List.length_cons, List.range_succ_eq_map, List.filter_cons, List.filter_map]
    simp only [hhead, Function.comp_def, Nat.succ_eq_add_one, htail]
    by_cases hc : c = 0#32 <;> simp [hc, Function.comp_def, Nat.add_assoc, Nat.add_comm 1]

theorem hintIndices_eq_filter (p : Poly) : hintIndices p = (List.range 256).filter fun j => decide (p.coeff j ≠ 0) := by
  rw [hintIndices, hintIndicesFrom_eq_map, p.size]
  simp only [Nat.zero_add, List.map_id']
  rfl

theorem hintIndices_lt {p : Poly} {j : Nat} (hj : j ∈ hintIndices p) : j < 256 := by
  rw [hintIndices_eq_filter] at hj
  exact List.mem_range.mp (List.mem_filter.mp hj).1

theorem entry_eq_coeff_fun {k : Nat} (hk : k < h.length) : entry h k = h[k].coeff := funext (entry_eq_coeff hk)

/-- The model's weight is the statements' (R17). -/
theorem weightOf_eq_weight8 (hlen : h.length = 8) : weightOf h = weight8 h := by
  rw [weightOf, weight8]
  refine congrArg List.sum (List.ext_getElem (by simp [hlen]) fun i hi _ => ?_)
  rw [List.length_map] at hi
  rw [List.getElem_map, List.getElem_map, List.getElem_range, entry_eq_coeff_fun hi, ← hintIndices_length, hintIndices_eq_filter,
    List.countP_eq_length_filter]

/-! ## The loops that build the hint table (R243) -/

/-- The table of the given indices and running counts: both filled up with zeros. -/
def hintTable (idx counts : List Nat) : List Nat :=
  idx ++ List.replicate (75 - idx.length) 0 ++ (counts ++ List.replicate (8 - counts.length) 0)

/-- The next index is written at the next index byte. -/
def putIndex (st : Nat × List Nat) (j : Nat) : Nat × List Nat := (st.1 + 1, st.2.set st.1 j)

/-- One turn of the statement's loop over the rows. -/
def packHintRow (h : List Poly) (st : Nat × List Nat) (i : Nat) : Nat × List Nat :=
  let st' := (List.range 256).foldl (fun (st : Nat × List Nat) j =>
    if entry h i j ≠ 0 then (st.1 + 1, st.2.set st.1 j) else st) st
  (st'.1, st'.2.set (75 + i) st'.1)

theorem packHintLoop_eq_foldl (h : List Poly) :
    packHintLoop h = ((List.range 8).foldl (packHintRow h) (0, List.replicate 83 0)).2 := rfl

/-- The inner loop writes the row's indices, one after the other. -/
theorem packHintRow_eq (st : Nat × List Nat) {i : Nat} (hi : i < h.length) : packHintRow h st i =
    (((hintIndices h[i]).foldl putIndex st).1,
      ((hintIndices h[i]).foldl putIndex st).2.set (75 + i) ((hintIndices h[i]).foldl putIndex st).1) := by
  rw [hintIndices_eq_filter, List.foldl_filter]
  simp only [packHintRow, putIndex, entry_eq_coeff_fun hi, decide_eq_true_eq]

/-- A value put at the head of the zeros that fill a list up. -/
theorem set_length_append_replicate (l : List Nat) {n : Nat} (hn : l.length < n) (x : Nat) :
    (l ++ List.replicate (n - l.length) 0).set l.length x = l ++ [x] ++ List.replicate (n - (l ++ [x]).length) 0 := by
  obtain ⟨m, rfl⟩ := Nat.exists_eq_add_of_lt hn
  have hfill : l.length + m + 1 - l.length = m + 1 := by omega
  rw [hfill, List.set_append_right _ _ le_rfl, Nat.sub_self, List.replicate_succ, List.set_cons_zero]
  simp

theorem hintTable_set_index {idx : List Nat} (counts : List Nat) (hidx : idx.length < 75) (j : Nat) :
    (hintTable idx counts).set idx.length j = hintTable (idx ++ [j]) counts := by
  rw [hintTable, List.set_append_left _ _ (by simp; omega), set_length_append_replicate idx hidx, hintTable]

theorem hintTable_set_count {idx counts : List Nat} {i : Nat} (hidx : idx.length ≤ 75) (hcounts : counts.length = i) (hi : i < 8)
    (c : Nat) : (hintTable idx counts).set (75 + i) c = hintTable idx (counts ++ [c]) := by
  subst hcounts
  have hlen : (idx ++ List.replicate (75 - idx.length) 0).length = 75 := by simp; omega
  rw [hintTable, List.set_append_right _ _ (by omega), hlen, Nat.add_sub_cancel_left, set_length_append_replicate counts hi,
    hintTable]

theorem foldl_putIndex {idx js : List Nat} (counts : List Nat) (hfit : (idx ++ js).length ≤ 75) :
    js.foldl putIndex (idx.length, hintTable idx counts) = ((idx ++ js).length, hintTable (idx ++ js) counts) := by
  induction js generalizing idx with
  | nil => simp
  | cons j js ih =>
    have hidx : idx.length < 75 := by
      rw [List.length_append, List.length_cons] at hfit
      omega
    have hstep : putIndex (idx.length, hintTable idx counts) j = ((idx ++ [j]).length, hintTable (idx ++ [j]) counts) := by
      rw [putIndex, hintTable_set_index counts hidx, List.length_append]
      rfl
    rw [List.foldl_cons, hstep, ih (by simpa using hfit), List.append_assoc, List.singleton_append]

theorem runningCounts_append (k : Nat) (g h : List Poly) :
    runningCounts k (g ++ h) = runningCounts k g ++ runningCounts (k + (g.flatMap hintIndices).length) h := by
  induction g generalizing k with
  | nil => rfl
  | cons p g ih => simp [runningCounts, ih, Nat.add_assoc]

/-- After i rows the table holds their indices and running counts. -/
theorem foldl_packHintRow (hlen : h.length = 8) (hfit : (h.flatMap hintIndices).length ≤ 75) {i : Nat} (hi : i ≤ 8) :
    (List.range i).foldl (packHintRow h) (0, List.replicate 83 0) =
      (((h.take i).flatMap hintIndices).length, hintTable ((h.take i).flatMap hintIndices) (runningCounts 0 (h.take i))) := by
  induction i with
  | zero => rfl
  | succ i ih =>
    have hlt : i < h.length := by omega
    have hrows : h.take (i + 1) = h.take i ++ [h[i]] := (List.take_concat_get' h i hlt).symm
    have hidx : (h.take (i + 1)).flatMap hintIndices = (h.take i).flatMap hintIndices ++ hintIndices h[i] := by
      rw [hrows, List.flatMap_append, List.flatMap_singleton]
    have hcounts : runningCounts 0 (h.take (i + 1)) =
        runningCounts 0 (h.take i) ++ [((h.take (i + 1)).flatMap hintIndices).length] := by
      rw [hidx, List.length_append, hrows, runningCounts_append]
      simp [runningCounts]
    have hlencounts : (runningCounts 0 (h.take i)).length = i := by
      rw [runningCounts_length, List.length_take]
      omega
    have hfit' : ((h.take (i + 1)).flatMap hintIndices).length ≤ 75 :=
      (((List.take_prefix (i + 1) h).flatMap hintIndices).length_le).trans hfit
    rw [List.range_succ, List.foldl_append, ih (by omega), List.foldl_cons, List.foldl_nil, packHintRow_eq _ hlt,
      foldl_putIndex _ (hidx ▸ hfit'), ← hidx, hcounts, hintTable_set_count hfit' hlencounts (by omega)]

theorem runningCounts_le {k c : Nat} (hc : c ∈ runningCounts k h) : c ≤ k + (h.flatMap hintIndices).length := by
  induction h generalizing k with
  | nil => cases hc
  | cons p h ih =>
    rw [List.flatMap_cons, List.length_append]
    rcases List.mem_cons.mp hc with rfl | hc
    · omega
    · have := ih hc
      omega

theorem numbers_map_ofNat {l : List Nat} (hl : ∀ x ∈ l, x < 256) : numbers (l.map (BitVec.ofNat 8)) = l := by
  rw [numbers, List.map_map]
  conv_rhs => rw [← List.map_id l]
  exact List.map_congr_left fun x hx => by simpa using hl x hx

/-- The model's table is the loops' (R243). -/
theorem numbers_packHint (hlen : h.length = 8) (hw : weightOf h ≤ 75) : numbers (packHint h) = packHintLoop h := by
  have hfit : (h.flatMap hintIndices).length ≤ 75 := by rwa [flatMap_hintIndices_length]
  have htable : hintTable (h.flatMap hintIndices) (runningCounts 0 h) =
      h.flatMap hintIndices ++ List.replicate (75 - (h.flatMap hintIndices).length) 0 ++ runningCounts 0 h := by
    rw [hintTable, runningCounts_length, hlen, Nat.sub_self, List.replicate_zero, List.append_nil]
  have hbyte : ∀ x ∈ hintTable (h.flatMap hintIndices) (runningCounts 0 h), x < 256 := by
    intro x hx
    rw [htable, List.mem_append, List.mem_append] at hx
    obtain (hx | hx) | hx := hx
    · obtain ⟨p, -, hp⟩ := List.mem_flatMap.mp hx
      exact hintIndices_lt hp
    · rw [List.eq_of_mem_replicate hx]
      omega
    · have := runningCounts_le hx
      omega
  rw [packHintLoop_eq_foldl, foldl_packHintRow hlen hfit le_rfl, ← hlen, List.take_length, ← numbers_map_ofNat hbyte, htable]
  rfl

end

/-- Settles O55: the weights agree, and so do the tables. -/
theorem packHintTable : Obligations.PackHintTable := by
  intro s v ra h hlatch hlen hold hslots hbytes
  obtain rfl := State.argv_of_latch hlatch
  have hvalid : validate s.params (operandsOf (.pkhint ra) s.params s.argv) = none := validate_packTo hslots hbytes
  have hexec : exec (.pkhint ra) s = if weightOf h > 75 then .next (s.endWithError .hintOverflow)
      else .next ((s.writeBytes s.argv.a0.toNat (packHint h)).complete (BitVec.ofNat 32 (weightOf h)) 0) := by
    change checked _ s (withSlots s ra 8 _) = _
    rw [checked_of_valid hvalid, withSlots_of_some (getRange_of_slotsHold hlen hold)]
  rw [← weightOf_eq_weight8 hlen]
  refine ⟨fun hw => ?_, fun hw => ⟨packHint h, numbers_packHint hlen hw, writesBytes_of_exec ?_⟩⟩
  · rw [hexec, if_pos hw]
    rfl
  · rw [hexec, if_neg (by omega)]

/-! ## The loop that reads a row of the hint table (R246) -/

section

variable {y : List Nat} {k c i n : Nat} {rows : List (List Int)}

/-- A loop that stops at the first bad element goes through where no element is bad. -/
theorem foldlM_ite_none {α β : Type} (bad : α → Prop) [DecidablePred bad] (f : β → α → β) (l : List α) (b : β) :
    l.foldlM (fun b a => if bad a then none else some (f b a)) b = if ∃ a ∈ l, bad a then none else some (l.foldl f b) := by
  induction l generalizing b with
  | nil => simp
  | cons a l ih =>
    by_cases ha : bad a
    · simp [ha]
    · simp [ha, ih]

theorem strictlyRising_iff_isChain (l : List Nat) : strictlyRising l = true ↔ l.IsChain (· < ·) := by
  match l with
  | [] => simp [strictlyRising]
  | [a] => simp [strictlyRising]
  | a :: b :: l => simp [strictlyRising, strictlyRising_iff_isChain (b :: l)]

theorem take_drop_eq_map_getD (hn : k + n ≤ y.length) : (y.drop k).take n = (List.range n).map fun d => y.getD (k + d) 0 := by
  refine List.ext_getElem (by simp; omega) fun d hd _ => ?_
  rw [List.length_take, List.length_drop] at hd
  rw [List.getElem_take, List.getElem_drop, List.getElem_map, List.getElem_range, List.getD_eq_getElem _ _ (by omega)]

/-- A row's indices rise strictly where none of them is at most the one before it. -/
theorem strictlyRising_map_range (f : Nat → Nat) (n : Nat) :
    strictlyRising ((List.range n).map f) = true ↔ ¬ ∃ d ∈ List.range n, d > 0 ∧ f d ≤ f (d - 1) := by
  rw [strictlyRising_iff_isChain, List.isChain_iff_getElem]
  simp only [List.length_map, List.length_range, List.getElem_map, List.getElem_range, List.mem_range, not_exists, not_and, not_le]
  constructor
  · intro h d hd hpos
    obtain ⟨e, rfl⟩ : ∃ e, d = e + 1 := ⟨d - 1, by omega⟩
    exact h e hd
  · exact fun h d hd => h (d + 1) hd (Nat.succ_pos d)

theorem ints_hintRow_nil : ints (hintRow []).coeffs = List.replicate 256 0 := by
  refine List.eq_replicate_iff.mpr ⟨by rw [ints_length, Poly.size], fun x hx => ?_⟩
  obtain ⟨c, hc, rfl⟩ := List.mem_map.mp hx
  obtain ⟨j, -, rfl⟩ := List.mem_map.mp hc
  rfl

/-- One more index is one more coefficient set. -/
theorem ints_hintRow_append (js : List Nat) (x : Nat) :
    ints (hintRow (js ++ [x])).coeffs = (ints (hintRow js).coeffs).set x 1 := by
  refine List.ext_getElem (by simp [hintRow, Poly.ofFn]) fun j _ _ => ?_
  rw [List.getElem_set]
  simp only [ints, hintRow, Poly.ofFn, List.getElem_map, List.getElem_range, List.mem_append, List.mem_singleton]
  by_cases hx : x = j
  · simp [hx]
  · simp [hx, Ne.symm hx]

/-- The row of a list of indices is set index by index. -/
theorem foldl_set_one (js : List Nat) : js.foldl (fun row x => row.set x 1) (List.replicate 256 0) = ints (hintRow js).coeffs := by
  induction js using List.reverseRecOn with
  | nil => exact ints_hintRow_nil.symm
  | append_singleton js x ih => rw [List.foldl_append, ih, ints_hintRow_append]; rfl

/-- The statement's loop over the n indices of a row from byte k on. -/
def hintRowLoop (y : List Nat) (k n : Nat) : Option (List Int) :=
  (List.range n).foldlM (fun (row : List Int) d =>
    if d > 0 ∧ y.getD (k + d) 0 ≤ y.getD (k + d - 1) 0 then none else some (row.set (y.getD (k + d) 0) 1)) (List.replicate 256 0)

/-- One turn of the statement's loop over the rows. -/
def unpackHintRow (y : List Nat) (st : Nat × List (List Int)) (i : Nat) : Option (Nat × List (List Int)) :=
  let c := y.getD (75 + i) 0
  if c < st.1 ∨ c > 75 then none
  else (hintRowLoop y st.1 (c - st.1)).map fun row => (c, st.2 ++ [row])

/-- The statement's check of the bytes past the last used index. -/
def unpackHintEnd (y : List Nat) (st : Nat × List (List Int)) : Option (List (List Int)) :=
  if ∀ d < 75 - st.1, y.getD (st.1 + d) 0 = 0 then some st.2 else none

theorem unpackHintLoop_eq_foldlM (y : List Nat) :
    unpackHintLoop y = ((List.range 8).foldlM (unpackHintRow y) (0, [])).bind (unpackHintEnd y) := rfl

/-- The inner loop accepts a row where its indices rise strictly, and sets them. -/
theorem hintRowLoop_eq (hn : k + n ≤ y.length) : hintRowLoop y k n =
    if strictlyRising ((y.drop k).take n) then some (ints (hintRow ((y.drop k).take n)).coeffs) else none := by
  have hbad : (∃ d ∈ List.range n, d > 0 ∧ y.getD (k + d) 0 ≤ y.getD (k + d - 1) 0) ↔
      ¬ strictlyRising ((y.drop k).take n) = true := by
    rw [take_drop_eq_map_getD hn, strictlyRising_map_range, not_not]
    exact exists_congr fun d => and_congr_right fun _ => and_congr_right fun hpos => by rw [Nat.add_sub_assoc hpos]
  rw [hintRowLoop, foldlM_ite_none (fun d => d > 0 ∧ y.getD (k + d) 0 ≤ y.getD (k + d - 1) 0)
    (fun (row : List Int) d => row.set (y.getD (k + d) 0) 1), ← foldl_set_one]
  simp only [hbad, ite_not]
  rw [take_drop_eq_map_getD hn, List.foldl_map]

/-! ## The loop over the rows (R246) -/

/-- A count that is below the one before it, or above OMEGA, rejects. -/
theorem unpackHintRow_of_bad_count (hc : y.getD (75 + i) 0 = c) (hbad : c < k ∨ c > 75) : unpackHintRow y (k, rows) i = none := by
  rw [unpackHintRow, hc]
  exact if_pos hbad

/-- A row with a legal count is accepted where its indices rise strictly. -/
theorem unpackHintRow_of_count (hc : y.getD (75 + i) 0 = c) (hk : k ≤ c) (h75 : c ≤ 75) (hy : 75 ≤ y.length) :
    unpackHintRow y (k, rows) i = if strictlyRising ((y.drop k).take (c - k)) then
      some (c, rows ++ [ints (hintRow ((y.drop k).take (c - k))).coeffs]) else none := by
  rw [unpackHintRow, hc]
  dsimp only
  rw [if_neg (by omega), hintRowLoop_eq (by omega)]
  split <;> rfl

/-- The model's index bytes of a row, in the first 75 of the table. -/
theorem take_drop_take (hk : k ≤ c) (h75 : c ≤ 75) : ((y.take 75).drop k).take (c - k) = (y.drop k).take (c - k) := by
  rw [List.drop_take, List.take_take, Nat.min_eq_left (by omega)]

/-- The statement's check and the model's of the bytes past the last index. -/
theorem unpackHintEnd_eq (hy : 75 ≤ y.length) (hk : k ≤ 75) :
    unpackHintEnd y (k, rows) = if ((y.take 75).drop k).all (· == 0) then some rows else none := by
  have hall : (((y.take 75).drop k).all (· == 0)) = true ↔ ∀ d < 75 - k, y.getD (k + d) 0 = 0 := by
    rw [List.drop_take, take_drop_eq_map_getD (by omega)]
    simp
  rw [unpackHintEnd]
  simp only [hall]

/-- The loop over the rows that are left and the model's recursion over their counts agree. -/
theorem foldlM_unpackHintRow {cs : List Nat} (hy : 75 ≤ y.length) (hcs : y.drop (75 + i) = cs) (hk : k ≤ 75) :
    ((List.range' i cs.length).foldlM (unpackHintRow y) (k, rows)).bind (unpackHintEnd y) =
      (unpackRows (y.take 75) k cs).map fun h => rows ++ h.map fun p => ints p.coeffs := by
  induction cs generalizing i k rows with
  | nil =>
    rw [unpackRows]
    change unpackHintEnd y (k, rows) = _
    rw [unpackHintEnd_eq hy hk]
    split <;> simp
  | cons c cs ih =>
    have hc : y.getD (75 + i) 0 = c := by
      rw [List.getD_eq_getElem?_getD, ← Nat.add_zero (75 + i), ← List.getElem?_drop, hcs]
      rfl
    have htail : y.drop (75 + (i + 1)) = cs := by rw [← Nat.add_assoc, ← List.drop_drop, hcs]; rfl
    rw [List.length_cons, List.range'_succ, List.foldlM_cons, unpackRows]
    by_cases hbad : c < k ∨ c > 75
    · rw [unpackHintRow_of_bad_count hc hbad, if_pos hbad]
      rfl
    · rw [unpackHintRow_of_count hc (by omega) (by omega) hy, if_neg hbad, take_drop_take (by omega) (by omega)]
      split
      · refine (ih htail (by omega)).trans ?_
        simp [Function.comp_def]
      · rfl

/-- The statement's loop accepts what the model accepts, with the same rows (R246). -/
theorem unpackHintLoop_eq {bs : List Byte} (hlen : bs.length = 83) :
    unpackHintLoop (numbers bs) = (unpackHint bs).map fun h => h.map fun p => ints p.coeffs := by
  have hy : (numbers bs).length = 83 := by rw [numbers, List.length_map, hlen]
  have hloop := foldlM_unpackHintRow (y := numbers bs) (i := 0) (k := 0) (rows := []) (by omega) rfl (by omega)
  rw [List.length_drop, hy] at hloop
  rw [unpackHintLoop_eq_foldlM, List.range_eq_range', hloop]
  rfl

theorem getD_map_ints {h : List Poly} (hk : k < h.length) (j : Nat) :
    ((h.map fun p => ints p.coeffs).getD k []).getD j 0 = entry h k j := by
  have hrow : (h.map fun p => ints p.coeffs).getD k [] = ints h[k].coeffs := by
    rw [List.getD_eq_getElem _ _ (by rwa [List.length_map]), List.getElem_map]
  rw [hrow, ints_getD, entry_eq_coeff hk]
  rfl

end

/-- Settles O56: the table's loop and the model accept the same tables, with the same rows. -/
theorem unpackHintTable : Obligations.UnpackHintTable := by
  intro s v rd y hlatch hlen hold hbytes hslots
  obtain rfl := State.argv_of_latch hlatch
  have hvalid : validate s.params (operandsOf (.upkhint rd) s.params s.argv) = none := validate_unpackFrom hbytes hslots
  have hexec : exec (.upkhint rd) s = (unpackHint y).elim (.next ((s.clearSlots rd 8).complete 1 0))
      fun h => .next ((s.writeSlots rd h).complete 0 0) := by
    change checked _ s (withBytes s _ 83 _) = _
    rw [checked_of_valid hvalid, withBytes_of_some (getRange_of_bytesHold hlen hold)]
    cases unpackHint y <;> rfl
  rw [unpackHintLoop_eq hlen]
  cases hunpack : unpackHint y with
  | some h =>
    rw [hunpack] at hexec
    refine ⟨?_, fun hnone => (by cases hnone)⟩
    rintro _ ⟨⟩
    have hrows : h.length = 8 := unpackHint_length hlen hunpack
    exact writesSlots_of_exec hexec hrows fun k j hk _ => (getD_map_ints (by omega) j).symm
  | none =>
    rw [hunpack] at hexec
    exact ⟨fun _ hsome => (by cases hsome), fun _ => ⟨_, hexec, rfl, fun _ => rfl, Sparse.get_clearRange s.pm rd 8⟩⟩

end Sys2Proof.Machine

/-! # Reset, the checks and the abort (O4, O14, O23 to O25)

What the checks answer is said once in the statements' words (`validate_eq_slotRange_iff` and its companions), and once for all
commands what an answer means for the turn: `exec_of_invalid` one way, `exec_errcode` the other. -/

namespace Sys2Proof.Machine

open Spec (SlotsInRange BytesInRange Overlaps neverOverlaps endedWith)

/-! ## Reset (R330 to R334) -/

/-- Settles O4: RST is a turn of the schedule, whatever the sequencer does. -/
theorem resetAbandonsCommand : Obligations.ResetAbandonsCommand := by
  intro s ts hturns
  refine ⟨s.popTurn.warmReset, ?_, ?_⟩
  · rw [step, nextTurn_cons hturns]
    rfl
  · simp [State.warmReset, State.popTurn, hturns]

/-! ## What the checks answer (R301 to R304) -/

section

variable {i : Instr} {p : Config.Params} {v : Args} {s t : State} {e : ErrCode}

theorem slots_endsWithin_iff (i : Instr) (p : Config.Params) (v : Args) :
    ((operandsOf i p v).slotDst ++ (operandsOf i p v).slotSrc).all (endsWithin p.nslot) = true ↔ SlotsInRange p i := by
  rw [endsWithin_all, SlotsInRange, slotsOut_eq i p v, slotsIn_eq i p v, ← List.map_append, List.forall_mem_map]
  rfl

theorem bytes_endsWithin_iff (i : Instr) (p : Config.Params) (v : Args) :
    ((operandsOf i p v).bmDst ++ (operandsOf i p v).bmSrc).all (endsWithin p.bmSize) = true ↔ BytesInRange p v i := by
  rw [endsWithin_all, BytesInRange, bytesOut_eq, bytesIn_eq, ← List.map_append, List.forall_mem_map]
  rfl

open Classical in
/-- The checks in their order (R303). -/
theorem validate_eq_ite (i : Instr) (p : Config.Params) (v : Args) : validate p (operandsOf i p v) =
    if ¬ SlotsInRange p i then some .slotRange else if ¬ BytesInRange p v i then some .bmRange
    else if Overlaps p v i then some .overlap else none := by
  simp only [validate, Bool.not_eq_true', ← Bool.not_eq_true, slots_endsWithin_iff, bytes_endsWithin_iff, overlapping_iff]

theorem validate_eq_slotRange_iff : validate p (operandsOf i p v) = some .slotRange ↔ ¬ SlotsInRange p i := by
  rw [validate_eq_ite]
  split_ifs <;> simp [*]

theorem validate_eq_bmRange_iff :
    validate p (operandsOf i p v) = some .bmRange ↔ SlotsInRange p i ∧ ¬ BytesInRange p v i := by
  rw [validate_eq_ite]
  split_ifs <;> simp_all

theorem validate_eq_overlap_iff :
    validate p (operandsOf i p v) = some .overlap ↔ SlotsInRange p i ∧ BytesInRange p v i ∧ Overlaps p v i := by
  rw [validate_eq_ite]
  split_ifs <;> simp_all

/-! ## What an answer of the checks means for the turn (R303) -/

/-- A failing check ends the command with its code and no other effect. -/
theorem exec_of_invalid (h : validate s.params (operandsOf i s.params s.argv) = some e) : exec i s = .next (endedWith s e) := by
  cases i with
  | nop | smont | sred | scaddq | sp2r | sdecomp | smkhint | susehint => cases h
  | _ => exact checked_of_invalid h

/-- Where a meaning goes on past the checks, ERRCODE is as it was, or HINT_OVERFLOW. -/
def KeepsErrCode (s : State) (r : Result) : Prop := ∀ t, r = .next t → t.errcode = s.errcode ∨ t.errcode = .hintOverflow

theorem KeepsErrCode.next (h : t.errcode = s.errcode) : KeepsErrCode s (.next t) := by
  rintro _ ⟨⟩
  exact .inl h

theorem KeepsErrCode.hintOverflow : KeepsErrCode s (.next (s.endWithError .hintOverflow)) := by
  rintro _ ⟨⟩
  exact .inr rfl

theorem KeepsErrCode.ite {c : Prop} [Decidable c] {a b : Result} (ha : KeepsErrCode s a) (hb : KeepsErrCode s b) :
    KeepsErrCode s (if c then a else b) := by
  split
  · exact ha
  · exact hb

theorem KeepsErrCode.withSlots {x n : Nat} {k : List Poly → Result} (hk : ∀ ps, KeepsErrCode s (k ps)) :
    KeepsErrCode s (withSlots s x n k) := fun t h => by
  obtain ⟨ps, -, -, h⟩ := withSlots_eq_next h
  exact hk ps t h

theorem KeepsErrCode.withBytes {a n : Nat} {k : List Byte → Result} (hk : ∀ bs, KeepsErrCode s (k bs)) :
    KeepsErrCode s (withBytes s a n k) := fun t h => by
  obtain ⟨bs, -, -, h⟩ := withBytes_eq_next h
  exact hk bs t h

theorem KeepsErrCode.withSeed {n : Nat} {k : List Byte → Result} (hk : ∀ bs, KeepsErrCode s (k bs)) :
    KeepsErrCode s (withSeed s n k) := fun t h => by
  obtain ⟨seed, -, h⟩ := withSeed_eq_next h
  exact hk seed t h

/-- ERRCODE after a checked meaning: kept, HINT_OVERFLOW, or the failing check's code. -/
theorem checked_errcode {eff : Result} (h : checked i s eff = .next t) (heff : KeepsErrCode s eff) :
    (t.errcode = s.errcode ∨ t.errcode = .hintOverflow) ∨
      validate s.params (operandsOf i s.params s.argv) = some t.errcode := by
  obtain ⟨e, hv, rfl⟩ | ⟨-, heff'⟩ := checked_eq_next h
  · exact .inr hv
  · exact .inl (heff t heff')

theorem sampleCmd_errcode {rd : Nat} {sl : SeedLen} {sampler : List Byte → Except Shortage Poly} {mode : XofMode}
    {msgs : List Byte → List (List Byte)} (h : sampleCmd i rd sl sampler mode msgs s = .next t) :
    (t.errcode = s.errcode ∨ t.errcode = .hintOverflow) ∨
      validate s.params (operandsOf i s.params s.argv) = some t.errcode := by
  refine checked_errcode h (.withSeed fun _ => ?_)
  split
  · exact .next rfl
  · exact .next rfl

/-- ERRCODE after any command's turn: one case for each way in which a command goes on past its checks. -/
theorem exec_errcode (h : exec i s = .next t) :
    (t.errcode = s.errcode ∨ t.errcode = .hintOverflow) ∨
      validate s.params (operandsOf i s.params s.argv) = some t.errcode := by
  cases i with
  | nop | smont | sred | scaddq | sp2r | sdecomp | smkhint | susehint => cases h; exact .inl (.inl rfl)
  | pshl | pred | pcaddq | pntt | pinvntt | pp2r | pdecomp | pkt1 | pkt0 | pketa | pkz | pkw1 | stpoly =>
    exact checked_errcode h (.withSlots fun _ => .next rfl)
  | padd | psub | ppwm | pusehint | ppwms | ppwacc | pmkhint =>
    exact checked_errcode h (.withSlots fun _ => .withSlots fun _ => .next rfl)
  | upkt1 | upkt0 | upketa | upkz | ldpoly | sgamma1 | unpackpk | unpacksk =>
    exact checked_errcode h (.withBytes fun _ => .next rfl)
  | pchknorm => exact checked_errcode h (.ite (.next rfl) (.withSlots fun _ => .next rfl))
  | matvec =>
    refine checked_errcode h (.withSeed fun _ => .withSlots fun _ => ?_)
    split
    · exact .next rfl
    · exact .next rfl
  | sunif | seta | schal => exact sampleCmd_errcode h
  | pkhint => exact checked_errcode h (.withSlots fun _ => .ite .hintOverflow (.next rfl))
  | packsig =>
    exact checked_errcode h (.withSlots fun _ => .ite .hintOverflow (.withBytes fun _ => .withSlots fun _ => .next rfl))
  | upkhint | unpacksig =>
    refine checked_errcode h (.withBytes fun _ => ?_)
    split
    · exact .next rfl
    · exact .next rfl
  | packpk => exact checked_errcode h (.withBytes fun _ => .withSlots fun _ => .next rfl)
  | packsk =>
    exact checked_errcode h (.withBytes fun _ => .withBytes fun _ => .withBytes fun _ => .withSlots fun _ => .withSlots fun _ =>
      .withSlots fun _ => .next rfl)
  | pzero | bzero | wipe => exact checked_errcode h (.next rfl)

/-- A check's code that a turn has brought up comes from that check. -/
theorem validate_of_errcode (he : e ≠ .hintOverflow) (hs : s.errcode ≠ e) (h : exec i s = .next t) (ht : t.errcode = e) :
    validate s.params (operandsOf i s.params s.argv) = some e := by
  subst ht
  obtain (hkept | hhint) | hv := exec_errcode h
  · exact absurd hkept.symm hs
  · exact absurd hhint he
  · exact hv

/-- The commands that R304 lists have one destination at most, and no source in its memory that it could meet. -/
theorem not_overlaps_of_neverOverlaps (h : neverOverlaps i = true) : ¬ Overlaps p v i := by
  rw [← overlapping_iff, Bool.not_eq_true]
  cases i with
  | nop | smont | sred | scaddq | sp2r | sdecomp | smkhint | susehint | pchknorm | sunif | seta | sgamma1 | schal | pkt1 | upkt1
  | pkt0 | upkt0 | pketa | upketa | pkz | upkz | pkw1 | pkhint | upkhint | ldpoly | stpoly | pzero | bzero | wipe => rfl
  | _ => cases h

end

/-- Settles O23: SLOT_RANGE is the first check's answer, which needs no latched argument. -/
theorem slotRangeChecked : Obligations.SlotRangeChecked :=
  ⟨fun _ _ hout => exec_of_invalid (validate_eq_slotRange_iff.mpr hout),
    fun _ _ _ hs h ht => validate_eq_slotRange_iff.mp (validate_of_errcode (by decide) hs h ht)⟩

/-- Settles O24: BM_RANGE is the second check's answer. -/
theorem byteRangeChecked : Obligations.ByteRangeChecked := by
  refine ⟨fun i s v hlatch hslots hout => ?_, fun i s t v hlatch hs h ht => ?_⟩
  · obtain rfl := State.argv_of_latch hlatch
    exact exec_of_invalid (validate_eq_bmRange_iff.mpr ⟨hslots, hout⟩)
  · obtain rfl := State.argv_of_latch hlatch
    exact (validate_eq_bmRange_iff.mp (validate_of_errcode (by decide) hs h ht)).2

/-- Settles O25: OVERLAP is the third check's answer, and the listed commands have no two ranges that could meet. -/
theorem overlapChecked : Obligations.OverlapChecked := by
  refine ⟨fun i s v hlatch hslots hbytes hover => ?_, fun i s t v hlatch hs h ht => ?_,
    fun p i v hi => not_overlaps_of_neverOverlaps hi⟩
  · obtain rfl := State.argv_of_latch hlatch
    exact exec_of_invalid (validate_eq_overlap_iff.mpr ⟨hslots, hbytes, hover⟩)
  · obtain rfl := State.argv_of_latch hlatch
    exact (validate_eq_overlap_iff.mp (validate_of_errcode (by decide) hs h ht)).2.2

end Sys2Proof.Machine

namespace Sys2Proof.Machine

open Spec (Passes weight8 SlotsHold slotsOut bytesOut)

/-! ## The abort of a running command (R32, R312) -/

section

variable {α : Type} {s : State} {i : Instr} {c : Word} {x : Nat}

/-- A CTRL write with bit 1 while a command runs sets IE and aborts. -/
theorem State.writeCtrl_of_abort (hrun : s.seq = .run) (hbit : c.getLsbD 1 = true) :
    s.writeCtrl c = ({ s with ie := c.getLsbD 0 } : State).abort := by
  rw [State.writeCtrl, hbit, (State.busy_eq_true s).mpr hrun]
  rfl

/-- Ranges cleared one after the other: a key in one of them is unwritten, any other is as it was. -/
theorem Sparse.get_foldl_clearRange (rs : List Range) (m : Sparse α) (b : Nat) :
    (rs.foldl (fun m r => m.clearRange r.start r.len) m).get b =
      if ∃ r ∈ rs.map Range.pair, r.1 ≤ b ∧ b < r.1 + r.2 then none else m.get b := by
  induction rs generalizing m with
  | nil => simp
  | cons r rs ih =>
    rw [List.foldl_cons, ih, Sparse.get_clearRange, List.map_cons]
    have hcons : (∃ q ∈ r.pair :: rs.map Range.pair, q.1 ≤ b ∧ b < q.1 + q.2) ↔
        (r.start ≤ b ∧ b < r.start + r.len) ∨ ∃ q ∈ rs.map Range.pair, q.1 ≤ b ∧ b < q.1 + q.2 := by
      simp [Range.pair]
    by_cases hr : r.start ≤ b ∧ b < r.start + r.len
    · rw [if_pos hr, ite_self, if_pos (hcons.mpr (.inl hr))]
    · rw [if_neg hr]
      exact if_congr (hcons.trans (or_iff_right hr)).symm rfl rfl

theorem State.clearAll_pm (s : State) (o : Operands) :
    (s.clearAll o).pm = o.slotDst.foldl (fun m r => m.clearRange r.start r.len) s.pm := by
  obtain ⟨bm, hbytes⟩ := foldl_clearBytes_eq o.bmDst (o.slotDst.foldl (fun s r => s.clearSlots r.start r.len) s)
  rw [State.clearAll, hbytes]
  exact (List.foldl_hom State.pm fun _ _ => rfl).symm

theorem State.clearAll_bm (s : State) (o : Operands) :
    (s.clearAll o).bm = o.bmDst.foldl (fun m r => m.clearRange r.start r.len) s.bm := by
  obtain ⟨pm, hslots, -⟩ := foldl_clearSlots_eq o.slotDst s
  rw [State.clearAll, hslots]
  exact (List.foldl_hom State.bm fun _ _ => rfl).symm

theorem State.abort_of_decode (hdec : decode s.cmd = .ok i) :
    s.abort = (s.clearAll (wouldWrite i s)).endWithError .aborted := by rw [State.abort, hdec]

/-- A command that passes its checks and is no hint packer of too large a weight would write its destinations. -/
theorem wouldWrite_of_passes (hpass : Passes s.params s.argv i) (hlight : hintTooHeavy i s = false) :
    wouldWrite i s =
      { slotDst := (operandsOf i s.params s.argv).slotDst, bmDst := (operandsOf i s.params s.argv).bmDst } := by
  simp [wouldWrite, (validate_iff_passes i s.params s.argv).mpr hpass, hlight]

theorem wouldWrite_of_not_passes (h : ¬ Passes s.params s.argv i) : wouldWrite i s = {} := by
  have hfail : (validate s.params (operandsOf i s.params s.argv)).isSome = true :=
    Option.isSome_iff_ne_none.mpr fun hnone => h ((validate_iff_passes ..).mp hnone)
  rw [wouldWrite, hfail, Bool.true_or, if_pos rfl]

theorem wouldWrite_of_hintTooHeavy (h : hintTooHeavy i s = true) : wouldWrite i s = {} := by
  rw [wouldWrite, h, Bool.or_true, if_pos rfl]

/-- After the abort of a command that would write its destinations, those slots are unwritten and the others as before. -/
theorem State.get_abort_pm (hdec : decode s.cmd = .ok i) (hpass : Passes s.params s.argv i) (hlight : hintTooHeavy i s = false)
    (x : Nat) : s.abort.pm.get x =
      if ∃ r ∈ slotsOut s.params i, r.1 ≤ x ∧ x < r.1 + r.2 then none else s.pm.get x := by
  rw [State.abort_of_decode hdec, wouldWrite_of_passes hpass hlight, State.endWithError_pm, State.clearAll_pm,
    Sparse.get_foldl_clearRange, slotsOut_eq i s.params s.argv]

/-- The same of its bytes. -/
theorem State.get_abort_bm (hdec : decode s.cmd = .ok i) (hpass : Passes s.params s.argv i) (hlight : hintTooHeavy i s = false)
    (a : Nat) : s.abort.bm.get a =
      if ∃ r ∈ bytesOut s.params s.argv i, r.1 ≤ a ∧ a < r.1 + r.2 then none else s.bm.get a := by
  rw [State.abort_of_decode hdec, wouldWrite_of_passes hpass hlight, State.endWithError_bm, State.clearAll_bm,
    Sparse.get_foldl_clearRange, bytesOut_eq]

/-- A word that is no command, and a command that would write nothing, leave PM and BM as they were. -/
theorem State.abort_of_writes_nothing (h : ∀ i, decode s.cmd = .ok i → wouldWrite i s = {}) :
    s.abort = s.endWithError .aborted := by
  cases hdec : decode s.cmd with
  | ok i => rw [State.abort_of_decode hdec, h i hdec]; rfl
  | error e => rw [State.abort, hdec]

/-- PKHINT and PACKSIG, with the base of their hint slots. -/
def PacksHints (i : Instr) (x : Nat) : Prop := i = .pkhint x ∨ ∃ ra, i = .packsig ra x

theorem hintTooHeavy_of_not_packsHints (h : ∀ x, ¬ PacksHints i x) : hintTooHeavy i s = false := by
  cases i with
  | pkhint ra => exact absurd (.inl rfl) (h ra)
  | packsig ra rb => exact absurd (.inr ⟨ra, rfl⟩) (h rb)
  | _ => rfl

theorem PacksHints.slotsOut_eq_nil (h : PacksHints i x) : slotsOut s.params i = [] := by
  obtain rfl | ⟨ra, rfl⟩ := h <;> rfl

/-- A hint packer is too heavy where its hint slots hold a weight above OMEGA. -/
theorem PacksHints.hintTooHeavy_iff (h : PacksHints i x) (hwf : PolyMem.wf s.params s.pm) :
    hintTooHeavy i s = true ↔ ∃ hs, hs.length = 8 ∧ SlotsHold s x hs ∧ 75 < weight8 hs := by
  have hheavy : hintTooHeavy i s = hintTooHeavy.heavy s x := by obtain rfl | ⟨ra, rfl⟩ := h <;> rfl
  rw [hheavy, hintTooHeavy.heavy]
  constructor
  · intro hw
    split at hw
    · rename_i hs hget
      obtain ⟨hlen, hslots⟩ := (Sparse.getRange_eq_some_iff hwf.1).mp hget
      exact ⟨hs, hlen, ⟨hwf, fun k hk => hslots k (hlen ▸ hk)⟩, weightOf_eq_weight8 hlen ▸ of_decide_eq_true hw⟩
    · cases hw
  · rintro ⟨hs, hlen, hold, hw⟩
    rw [getRange_of_slotsHold hlen hold]
    exact decide_eq_true (weightOf_eq_weight8 hlen ▸ hw)

end

/-- Settles O14: the aborting write is the abort of the state with its new IE, and the command in it would write its destinations
or nothing. -/
theorem abortRunningCommand : Obligations.AbortRunningCommand := by
  intro s v c hrun hlatch hbit
  obtain rfl := State.argv_of_latch hlatch
  have habort : csrWrite s 0x10 c = ({ s with ie := c.getLsbD 0 } : State).abort := State.writeCtrl_of_abort hrun hbit
  rw [habort]
  set u : State := { s with ie := c.getLsbD 0 }
  refine ⟨?_, fun i hdec hpass hpk hsig => ?_, fun i x hdec hpass hhint hwf => ?_, fun hfail => ?_⟩
  · obtain ⟨pm, bm, heq, -⟩ := u.abort_eq
    rw [heq]
    exact ⟨rfl, rfl⟩
  · have hlight : hintTooHeavy i u = false :=
      hintTooHeavy_of_not_packsHints fun x hx => hx.elim (hpk x) fun ⟨ra, hra⟩ => hsig ra x hra
    exact ⟨State.get_abort_pm hdec hpass hlight, State.get_abort_bm hdec hpass hlight⟩
  · have hpacks : PacksHints i x := hhint
    have hheavy := hpacks.hintTooHeavy_iff (s := u) hwf
    by_cases hw : hintTooHeavy i u = true
    · have hnothing : u.abort = u.endWithError .aborted := State.abort_of_writes_nothing fun j hj => by
        cases hdec.symm.trans hj
        exact wouldWrite_of_hintTooHeavy hw
      rw [hnothing]
      exact ⟨fun _ => rfl, fun _ _ => rfl, fun hlight => absurd (hheavy.mp hw) hlight⟩
    · have hlight : hintTooHeavy i u = false := Bool.not_eq_true _ ▸ hw
      refine ⟨fun y => ?_, fun hw' => absurd (hheavy.mpr hw') hw, fun _ => State.get_abort_bm hdec hpass hlight⟩
      rw [State.get_abort_pm (s := u) hdec hpass hlight, hpacks.slotsOut_eq_nil]
      simp [u]
  · exact State.abort_of_writes_nothing (s := u) fun i hdec => wouldWrite_of_not_passes (hfail i hdec)

end Sys2Proof.Machine

/-! # Keys, signatures, transfers and zeroing (O57 to O60)

A buffer is its fields one after the other, so each pack command writes a concatenation and each unpack command reads slices of its
byte string. The checks pass where ranges are apart (`RangesLegal`), and the packed vectors are those of O52 and O53. -/

namespace Sys2Proof.Machine

open Spec (entry slice value low packedField Packed)
open Spec (SlotsInRange BytesInRange Passes slotsOut slotsIn bytesOut bytesIn Apart)

/-! ## Ranges apart (R301, R302, R304) -/

section

variable {i : Instr} {p : Config.Params} {v : Args} {s : State} {eff : Result}

theorem apart_comm {x n y m : Nat} : Apart x n y m ↔ Apart y m x n := or_comm

theorem not_meets_of_apart {x y : Nat × Nat} (h : Apart x.1 x.2 y.1 y.2) : ¬ Spec.Meets x y := by
  rintro ⟨hxy, hyx⟩
  simp only [Apart] at h
  omega

/-- The command's ranges fit, and its destinations are apart from its sources and from each other. -/
def RangesLegal (p : Config.Params) (v : Args) (i : Instr) : Prop :=
  SlotsInRange p i ∧ BytesInRange p v i ∧
  (∀ d ∈ slotsOut p i, ∀ x ∈ slotsIn i, Apart d.1 d.2 x.1 x.2) ∧
  (slotsOut p i).Pairwise (fun x y => Apart x.1 x.2 y.1 y.2) ∧
  (∀ d ∈ bytesOut p v i, ∀ x ∈ bytesIn p v i, Apart d.1 d.2 x.1 x.2) ∧
  (bytesOut p v i).Pairwise fun x y => Apart x.1 x.2 y.1 y.2

theorem RangesLegal.passes (h : RangesLegal p v i) : Passes p v i := by
  obtain ⟨hslots, hbytes, hslotSrc, hslotDst, hbyteSrc, hbyteDst⟩ := h
  refine ⟨hslots, hbytes, ?_⟩
  rintro (⟨d, hd, x, hx, hmeet, -⟩ | hmeet | ⟨d, hd, x, hx, hmeet⟩ | hmeet)
  · exact not_meets_of_apart (hslotSrc d hd x hx) hmeet
  · exact hmeet (hslotDst.imp not_meets_of_apart)
  · exact not_meets_of_apart (hbyteSrc d hd x hx) hmeet
  · exact hmeet (hbyteDst.imp not_meets_of_apart)

theorem checked_of_passes (h : Passes s.params s.argv i) : checked i s eff = eff :=
  checked_of_valid ((validate_iff_passes ..).mpr h)

end

/-! ## Slices of a byte string -/

section

variable {α : Type} {bs : List Byte} {a b k m n len : Nat}

theorem slice_length (h : a + n ≤ bs.length) : (slice bs a n).length = n := by
  rw [slice, List.length_take, List.length_drop]
  omega

theorem getElem?_slice (bs : List Byte) (a : Nat) (hk : k < n) : (slice bs a n)[k]? = bs[a + k]? := by
  rw [slice, List.getElem?_take_of_lt hk, List.getElem?_drop]

/-- Bytes of a slice are bytes of the string. -/
theorem slice_slice (bs : List Byte) (a : Nat) (h : b + m ≤ n) : slice (slice bs a n) b m = slice bs (a + b) m := by
  rw [slice, slice, slice, List.drop_take, List.drop_drop, List.take_take, Nat.min_eq_left (by omega)]

/-- String k of a concatenation of strings of one length. -/
theorem slice_flatMap (f : α → List Byte) {xs : List α} (hlen : ∀ x, (f x).length = len) (hk : k < xs.length) :
    slice (xs.flatMap f) (len * k) len = f xs[k] := by
  have hpiece : (pieces len xs.length (xs.flatMap f))[k]? = some (f xs[k]) := by
    rw [pieces_flatMap f xs rfl fun x _ => hlen x, List.getElem?_map, List.getElem?_eq_getElem hk]
    rfl
  rw [getElem?_pieces, if_pos hk] at hpiece
  exact Option.some.inj hpiece

end

/-! ## Packing keys and signatures (R261 to R263, R265, R267) -/

section

variable {s : State} {rd ra rb w n : Nat} {toField : Int → Int} {ps t1 s1 s2 t0 z h : List Poly} {rho key tr c : List Byte}

theorem packed_of_length (toField : Int → Int) (hlen : ps.length = n) :
    Packed (ps.flatMap (packPoly w toField)) n w fun k j => toField (entry ps k j) :=
  hlen ▸ packed_flatMap_packPoly w toField ps

/-- PACKPK on written sources: rho, then t1 (R263). -/
theorem exec_packpk (hpass : Passes s.params s.argv (.packpk ra)) (hrho : s.bm.getRange s.argv.a1.toNat 32 = some rho)
    (ht1 : s.pm.getRange ra 8 = some t1) :
    exec (.packpk ra) s = .next ((s.writeBytes s.argv.a0.toNat (rho ++ t1.flatMap packT1)).complete 0 0) := by
  change checked _ s (withBytes s _ 32 fun rho => withSlots s ra 8 _) = _
  rw [checked_of_passes hpass, withBytes_of_some hrho, withSlots_of_some ht1]

/-- PACKSK on written sources: rho, key and tr, then s1, s2 and t0 (R265). -/
theorem exec_packsk (hpass : Passes s.params s.argv (.packsk rd ra rb)) (hrho : s.bm.getRange s.argv.a1.toNat 32 = some rho)
    (hkey : s.bm.getRange s.argv.a2.toNat 32 = some key) (htr : s.bm.getRange s.argv.a3.toNat s.params.trBytes = some tr)
    (hs1 : s.pm.getRange ra 7 = some s1) (hs2 : s.pm.getRange rb 8 = some s2) (ht0 : s.pm.getRange rd 8 = some t0) :
    exec (.packsk rd ra rb) s = .next ((s.writeBytes s.argv.a0.toNat
      (rho ++ key ++ tr ++ s1.flatMap packEta ++ s2.flatMap packEta ++ t0.flatMap packT0)).complete 0 0) := by
  change checked _ s (withBytes s _ 32 fun rho => withBytes s _ 32 fun key => withBytes s _ s.params.trBytes fun tr =>
    withSlots s ra 7 fun s1 => withSlots s rb 8 fun s2 => withSlots s rd 8 _) = _
  rw [checked_of_passes hpass, withBytes_of_some hrho, withBytes_of_some hkey, withBytes_of_some htr, withSlots_of_some hs1,
    withSlots_of_some hs2, withSlots_of_some ht0]

/-- PACKSIG on written sources: HINT_OVERFLOW, or the challenge seed, z and the hint table with the weight (R267). -/
theorem exec_packsig (hpass : Passes s.params s.argv (.packsig ra rb)) (hc : s.bm.getRange s.argv.a1.toNat 32 = some c)
    (hz : s.pm.getRange ra 7 = some z) (hh : s.pm.getRange rb 8 = some h) :
    exec (.packsig ra rb) s = if weightOf h > 75 then .next (s.endWithError .hintOverflow)
      else .next ((s.writeBytes s.argv.a0.toNat (c ++ z.flatMap packZ ++ packHint h)).complete
        (BitVec.ofNat 32 (weightOf h)) 0) := by
  change checked _ s (withSlots s rb 8 fun h => if weightOf h > 75 then _ else withBytes s _ 32 fun c => withSlots s ra 7 _) = _
  rw [checked_of_passes hpass, withSlots_of_some hh, withBytes_of_some hc, withSlots_of_some hz]

end

/-- Settles O57: each buffer is its fields one after the other, the vectors packed as in O52 and the hint table as in O55. -/
theorem packKeysAndSignature : Obligations.PackKeysAndSignature := by
  intro s v hlatch
  obtain rfl := State.argv_of_latch hlatch
  refine ⟨fun ra rho t1 hrholen hrho ht1len ht1 hslots hout hin hapart => ?_,
    fun rd ra rb rho key tr s1 s2 t0 hrholen hrho hkeylen hkey htrlen htr hs1len hs1 hs2len hs2 ht0len ht0 hrd hra hrb hout
      hin1 hin2 hin3 hapart1 hapart2 hapart3 => ?_,
    fun ra rb c z h hclen hc hzlen hz hhlen hh hra hrb hout hin hapart => ?_⟩
  · have hlegal : RangesLegal s.params s.argv (.packpk ra) := by
      simp [RangesLegal, SlotsInRange, BytesInRange, slotsOut, slotsIn, bytesOut, bytesIn, *]
    exact ⟨_, packed_of_length (fun a => a) ht1len,
      writesBytes_of_exec (exec_packpk hlegal.passes (getRange_of_bytesHold hrholen hrho) (getRange_of_slotsHold ht1len ht1))⟩
  · have hlegal : RangesLegal s.params s.argv (.packsk rd ra rb) := by
      simp [RangesLegal, SlotsInRange, BytesInRange, slotsOut, slotsIn, bytesOut, bytesIn, *]
    exact ⟨_, _, _, packed_of_length (fun a => 2 - a) hs1len, packed_of_length (fun a => 2 - a) hs2len,
      packed_of_length (fun a => 4096 - a) ht0len,
      writesBytes_of_exec (exec_packsk hlegal.passes (getRange_of_bytesHold hrholen hrho) (getRange_of_bytesHold hkeylen hkey)
        (getRange_of_bytesHold htrlen htr) (getRange_of_slotsHold hs1len hs1) (getRange_of_slotsHold hs2len hs2)
        (getRange_of_slotsHold ht0len ht0))⟩
  · have hlegal : RangesLegal s.params s.argv (.packsig ra rb) := by
      simp [RangesLegal, SlotsInRange, BytesInRange, slotsOut, slotsIn, bytesOut, bytesIn, *]
    have hexec := exec_packsig hlegal.passes (getRange_of_bytesHold hclen hc) (getRange_of_slotsHold hzlen hz)
      (getRange_of_slotsHold hhlen hh)
    rw [← weightOf_eq_weight8 hhlen]
    refine ⟨fun hw => ?_, fun hw => ⟨_, _, packed_of_length (fun a => 524288 - a) hzlen, numbers_packHint hhlen hw,
      writesBytes_of_exec ?_⟩⟩
    · rw [hexec, if_pos hw]
      rfl
    · rw [hexec, if_neg (by omega)]
      rfl

/-! ## Unpacking keys and signatures (R264, R266, R268) -/

section

variable {α : Type} {mem : Sparse α} {x y z n : Nat} {ps qs rs : List α}

/-- Three writes to ranges apart: each range reads what was written to it. -/
theorem get_setRange_three (hxy : Apart x ps.length y qs.length) (hxz : Apart x ps.length z rs.length)
    (hyz : Apart y qs.length z rs.length) (b : Nat) :
    (((mem.setRange x ps).setRange y qs).setRange z rs).get b = if x ≤ b ∧ b < x + ps.length then ps[b - x]?
      else if y ≤ b ∧ b < y + qs.length then qs[b - y]?
      else if z ≤ b ∧ b < z + rs.length then rs[b - z]? else mem.get b := by
  rw [Sparse.get_setRange, get_setRange_setRange _ hxy]
  by_cases hz : z ≤ b ∧ b < z + rs.length
  · simp only [Apart] at hxz hyz
    rw [if_pos hz, if_neg (by omega), if_neg (by omega), if_pos hz]
  · rw [if_neg hz, if_neg hz]

/-- A range that is cleared after a write to a range apart. -/
theorem get_clearRange_setRange (hxy : Apart x ps.length y n) (b : Nat) :
    ((mem.setRange x ps).clearRange y n).get b = if x ≤ b ∧ b < x + ps.length then ps[b - x]?
      else if y ≤ b ∧ b < y + n then none else mem.get b := by
  rw [Sparse.get_clearRange, Sparse.get_setRange]
  by_cases hx : x ≤ b ∧ b < x + ps.length
  · simp only [Apart] at hxy
    rw [if_neg (by omega), if_pos hx, if_pos hx]
  · rw [if_neg hx, if_neg hx]

end

section

variable {s : State} {rd ra rb w n a k j : Nat} {toField toCoeff : Int → Int} {pk sk sig bs : List Byte}

/-- A coefficient of a vector unpacked from offset a of a buffer. -/
theorem FieldMap.entry_unpackVec_drop (hmap : FieldMap w toField toCoeff) (bs : List Byte) (a : Nat) (hk : k < n) (hj : j < 256) :
    entry (unpackVec (packedBytes w) n (unpackPoly w toCoeff) (bs.drop a)) k j =
      toCoeff (packedField w (slice bs a (n * (32 * w))) k j) := by
  have hpiece : slice (slice bs a (n * (32 * w))) (32 * w * k) (32 * w) = slice bs (a + 32 * w * k) (32 * w) :=
    slice_slice bs a (by rw [← Nat.mul_succ, Nat.mul_comm]; exact Nat.mul_le_mul_right _ hk)
  rw [entry_unpackVec _ _ hk, hmap.coeff_unpackPoly _ hj, packedField, hpiece, slice, List.drop_drop]
  rfl

/-- UNPACKPK on a written buffer (R264). -/
theorem exec_unpackpk (hpass : Passes s.params s.argv (.unpackpk rd)) (hpk : s.bm.getRange s.argv.a0.toNat 2592 = some pk) :
    exec (.unpackpk rd) s = .next (((s.writeBytes s.argv.a1.toNat (slice pk 0 32)).writeSlots rd
      (unpackVec (packedBytes 10) 8 unpackT1 (pk.drop 32))).complete 0 0) := by
  change checked _ s (withBytes s _ 2592 _) = _
  rw [checked_of_passes hpass, withBytes_of_some hpk]
  rfl

/-- The offsets of s1, s2 and t0 in a secret key (R261). -/
theorem sk_offsets (p : Config.Params) : skS1 p = 64 + p.trBytes ∧ skS2 p = 736 + p.trBytes ∧ skT0 p = 1504 + p.trBytes := by
  simp only [skT0, skS2, skS1, packedBytes, Config.seedBytes, Config.vecK, Config.vecL, true_and]
  omega

/-- UNPACKSK on a written buffer (R266). -/
theorem exec_unpacksk (hpass : Passes s.params s.argv (.unpacksk rd ra rb))
    (hsk : s.bm.getRange s.argv.a0.toNat (4832 + s.params.trBytes) = some sk) :
    exec (.unpacksk rd ra rb) s = .next ({ s with
      bm := ((s.bm.setRange s.argv.a1.toNat (slice sk 0 32)).setRange s.argv.a2.toNat (slice sk 32 32)).setRange
        s.argv.a3.toNat (slice sk 64 s.params.trBytes)
      pm := ((s.pm.setRange ra (unpackVec (packedBytes 3) 7 unpackEta (sk.drop (64 + s.params.trBytes)))).setRange rb
        (unpackVec (packedBytes 3) 8 unpackEta (sk.drop (736 + s.params.trBytes)))).setRange rd
        (unpackVec (packedBytes 13) 8 unpackT0 (sk.drop (1504 + s.params.trBytes))) }.complete 0 0) := by
  obtain ⟨hs1, hs2, ht0⟩ := sk_offsets s.params
  change checked _ s (withBytes s _ (skBytes s.params) _) = _
  rw [checked_of_passes hpass, skBytes_eq, withBytes_of_some hsk, ← hs1, ← hs2, ← ht0]
  rfl

/-- The raw fields of a secret key at their destinations (R261, R266). -/
theorem get_setRange_rawFields (mem : Memory) {x y z tr : Nat} (hlen : 64 + tr ≤ sk.length) (hxy : Apart x 32 y 32)
    (hxz : Apart x 32 z tr) (hyz : Apart y 32 z tr) (b : Nat) :
    (((mem.setRange x (slice sk 0 32)).setRange y (slice sk 32 32)).setRange z (slice sk 64 tr)).get b =
      if x ≤ b ∧ b < x + 32 then sk[b - x]? else if y ≤ b ∧ b < y + 32 then sk[32 + (b - y)]?
      else if z ≤ b ∧ b < z + tr then sk[64 + (b - z)]? else mem.get b := by
  have hrho : (slice sk 0 32).length = 32 := slice_length (by omega)
  have hkey : (slice sk 32 32).length = 32 := slice_length (by omega)
  have htr : (slice sk 64 tr).length = tr := slice_length hlen
  rw [get_setRange_three (by rwa [hrho, hkey]) (by rwa [hrho, htr]) (by rwa [hkey, htr]), hrho, hkey, htr]
  refine ite_congr rfl (fun hb => ?_) fun _ => ite_congr rfl (fun hb => ?_) fun _ => ite_congr rfl (fun hb => ?_) fun _ => rfl
  · rw [getElem?_slice sk 0 (by omega), Nat.zero_add]
  · exact getElem?_slice sk 32 (by omega)
  · exact getElem?_slice sk 64 (by omega)

/-- The challenge seed and z of a signature at their destinations (R268). -/
def State.writeSeedAndZ (s : State) (ra : Nat) (sig : List Byte) : State :=
  (s.writeBytes s.argv.a1.toNat (slice sig 0 32)).writeSlots ra (unpackVec (packedBytes 20) 7 unpackZ (sig.drop 32))

/-- UNPACKSIG on a written buffer (R268). -/
theorem exec_unpacksig (hpass : Passes s.params s.argv (.unpacksig ra rb)) (hlen : sig.length = 4595)
    (hsig : s.bm.getRange s.argv.a0.toNat 4595 = some sig) :
    exec (.unpacksig ra rb) s = (unpackHint (slice sig 4512 83)).elim
      (.next (((s.writeSeedAndZ ra sig).clearSlots rb 8).complete 1 0))
      fun h => .next (((s.writeSeedAndZ ra sig).writeSlots rb h).complete 0 0) := by
  have htable : slice sig 4512 83 = sig.drop sigHint := List.take_of_length_le (by rw [List.length_drop, hlen])
  change checked _ s (withBytes s _ 4595 _) = _
  rw [checked_of_passes hpass, withBytes_of_some hsig, htable]
  cases unpackHint (sig.drop sigHint) <;> rfl

end

/-- Settles O58: each field is read from its offset, the vectors as in O53 and the hint table as in O56. -/
theorem unpackKeysAndSignature : Obligations.UnpackKeysAndSignature := by
  intro s v hlatch
  obtain rfl := State.argv_of_latch hlatch
  refine ⟨fun rd pk hlen hpk hin hout hapart hrd => ?_,
    fun rd ra rb sk tr htr hlen hsk hin hout1 hout2 hout3 hin1 hin2 hin3 h12 h13 h23 hrd hra hrb hda hdb hab => ?_,
    fun ra rb sig hlen hsig hin hout hapart hra hrb hab => ?_⟩
  · have hlegal : RangesLegal s.params s.argv (.unpackpk rd) := by
      simp [RangesLegal, SlotsInRange, BytesInRange, slotsOut, slotsIn, bytesOut, bytesIn,
        apart_comm.mp hapart, *]
    exact ⟨_, _, exec_unpackpk hlegal.passes (getRange_of_bytesHold hlen hpk), rfl, Sparse.get_setRange s.bm _ _,
      unpackVec_length .., Sparse.get_setRange s.pm _ _, fun k j hk hj => t1_fieldMap.entry_unpackVec_drop pk 32 hk hj⟩
  · subst htr
    have hlegal : RangesLegal s.params s.argv (.unpacksk rd ra rb) := by
      simp [RangesLegal, SlotsInRange, BytesInRange, slotsOut, slotsIn, bytesOut, bytesIn, apart_comm.mp hin1,
        apart_comm.mp hin2, apart_comm.mp hin3, *]
    refine ⟨_, _, _, _, exec_unpacksk hlegal.passes (getRange_of_bytesHold hlen hsk), rfl,
      get_setRange_rawFields s.bm (by omega) h12 h13 h23, unpackVec_length .., unpackVec_length .., unpackVec_length .., fun y => ?_,
      fun k j hk hj => eta_fieldMap.entry_unpackVec_drop sk _ hk hj, fun k j hk hj => eta_fieldMap.entry_unpackVec_drop sk _ hk hj,
      fun k j hk hj => t0_fieldMap.entry_unpackVec_drop sk _ hk hj⟩
    · rw [State.complete_pm, Sparse.get_setRange, get_setRange_setRange _ (by simpa using hab)]
      simp only [unpackVec_length]
      rfl
  · have hlegal : RangesLegal s.params s.argv (.unpacksig ra rb) := by
      simp [RangesLegal, SlotsInRange, BytesInRange, slotsOut, slotsIn, bytesOut, bytesIn,
        apart_comm.mp hapart, *]
    have hexec := exec_unpacksig hlegal.passes hlen (getRange_of_bytesHold hlen hsig)
    have htable : (slice sig 4512 83).length = 83 := slice_length (by omega)
    have hz (k j : Nat) (hk : k < 7) (hj : j < 256) := z_fieldMap.entry_unpackVec_drop sig 32 hk hj
    rw [unpackHintLoop_eq htable]
    cases hunpack : unpackHint (slice sig 4512 83) with
    | some h =>
      rw [hunpack] at hexec
      have hrows : h.length = 8 := unpackHint_length htable hunpack
      refine ⟨_, _, 0, hexec, rfl, Sparse.get_setRange s.bm _ _, unpackVec_length .., hz, ?_, nofun⟩
      rintro _ ⟨⟩
      refine ⟨rfl, h, hrows, fun k j hk _ => (getD_map_ints (by omega) j).symm, fun y => ?_⟩
      have hget := get_setRange_setRange s.pm (ps := unpackVec (packedBytes 20) 7 unpackZ (sig.drop 32)) (qs := h)
        (by simpa [hrows] using hab) y
      rwa [unpackVec_length, hrows] at hget
    | none =>
      rw [hunpack] at hexec
      refine ⟨_, _, 1, hexec, rfl, Sparse.get_setRange s.bm _ _, unpackVec_length .., hz, nofun, fun _ => ⟨rfl, fun y => ?_⟩⟩
      have hget := get_clearRange_setRange (mem := s.pm) (ps := unpackVec (packedBytes 20) 7 unpackZ (sig.drop 32))
        (by simpa using hab) y
      rwa [unpackVec_length] at hget

/-! ## Transfers (R280, R281) -/

section

variable {bs : List Byte} {p : Poly} {ps : List Poly} {k j n : Nat}

/-- A coefficient of a 1024-byte image is the signed number of its 4 bytes (R280). -/
theorem coeff_polyOfImage (bs : List Byte) (hj : j < 256) : (polyOfImage bs).coeff j = low (value (slice bs (4 * j) 4)) := by
  have hword : (polyOfImage bs).coeffs[j]? = some (BitVec.ofNat 32 (value (slice bs (4 * j) 4))) := by
    rw [polyOfImage, List.getElem?_map, getElem?_pieces, if_pos hj, Option.map_some, bytesToNat_eq_value]
    rfl
  rw [Poly.coeff, List.getD_eq_getElem?_getD, hword, Option.getD_some, BitVec.toInt_ofNat']
  rfl

/-- The 4 bytes of a coefficient in an image hold it modulo 2^32 (R281). -/
theorem value_slice_polyImage (p : Poly) (hj : j < 256) :
    (value (slice (polyImage p) (4 * j) 4) : Int) = p.coeff j % 4294967296 := by
  have hlt : j < p.coeffs.length := by rwa [p.size]
  have hword : value (slice (polyImage p) (4 * j) 4) = p.coeffs[j].toNat := by
    rw [polyImage, slice_flatMap _ (fun _ => natToBytes_length 4 _) hlt, value_natToBytes]
    exact Nat.mod_eq_of_lt p.coeffs[j].isLt
  rw [hword, p.coeff_eq_getElem hlt, BitVec.toInt_eq_toNat_bmod]
  exact (Int.bmod_emod.trans (Int.emod_eq_of_lt (by positivity) (by exact_mod_cast p.coeffs[j].isLt))).symm

theorem value_slice_flatMap_polyImage (hk : k < ps.length) (hj : j < 256) :
    (value (slice (ps.flatMap polyImage) (1024 * k + 4 * j) 4) : Int) = entry ps k j % 4294967296 := by
  rw [← slice_slice _ (1024 * k) (n := 1024) (by omega), slice_flatMap polyImage polyImage_length hk, value_slice_polyImage _ hj,
    entry_eq_coeff hk]

end

/-- Settles O59: slot by slot the image of a polynomial, coefficient by coefficient its 4 bytes. -/
theorem polynomialTransfers : Obligations.PolynomialTransfers := by
  refine ⟨fun s v rd vl bs hlatch hlen hold hbytes hslots => ?_, fun s v ra vl ps hlatch hlen hold hslots hbytes => ?_⟩
  · obtain rfl := State.argv_of_latch hlatch
    have hvalid : validate s.params (operandsOf (.ldpoly rd vl) s.params s.argv) = none := validate_unpackFrom hbytes hslots
    refine writesSlots_of_exec (ps := unpackVec 1024 vl.count polyOfImage bs) ?_ (unpackVec_length ..) fun k j hk hj => ?_
    · change checked _ s (withBytes s _ (vl.count * 1024) _) = _
      rw [checked_of_valid hvalid, withBytes_of_some (getRange_of_bytesHold hlen hold)]
    · rw [entry_unpackVec _ _ hk, coeff_polyOfImage _ hj, slice_slice _ _ (by omega)]
  · obtain rfl := State.argv_of_latch hlatch
    have hvalid : validate s.params (operandsOf (.stpoly ra vl) s.params s.argv) = none := validate_packTo hslots hbytes
    refine ⟨ps.flatMap polyImage, hlen ▸ flatMap_length polyImage ps fun p _ => polyImage_length p,
      fun k j hk hj => value_slice_flatMap_polyImage (hlen ▸ hk) hj, writesBytes_of_exec ?_⟩
    change checked _ s (withSlots s ra vl.count _) = _
    rw [checked_of_valid hvalid, withSlots_of_some (getRange_of_slotsHold hlen hold)]

/-! ## Zeroing (R282 to R284) -/

section

variable {α : Type} {m : Sparse α} {s : State} {size b k n j : Nat}

theorem Poly.coeff_const_zero (hj : j < 256) : (Poly.const 0).coeff j = 0 := by
  rw [Poly.coeff_eq_getElem _ (by rwa [Poly.size])]
  simp [Poly.const]

theorem entry_replicate_zero (hk : k < n) (hj : j < 256) : entry (List.replicate n (Poly.const 0)) k j = 0 := by
  rw [entry_of_getElem? (List.getElem?_replicate_of_lt hk), Poly.coeff_const_zero hj]

/-- A canonical memory holds nothing at or above its size. -/
theorem Sparse.get_eq_none_of_wfBelow (hwf : m.wfBelow size) (hb : size ≤ b) : m.get b = none := by
  have hget := Sparse.get_filter m (fun c => decide (c < size)) b
  rw [List.filter_eq_self.mpr fun c hc => decide_eq_true (hwf.2 c hc)] at hget
  rw [hget, if_neg (by simpa using hb)]

/-- A memory filled from key 0 up to n. -/
theorem Sparse.get_setRange_zero_replicate (m : Sparse α) (n : Nat) (x : α) (b : Nat) :
    (m.setRange 0 (List.replicate n x)).get b = if b < n then some x else m.get b := by
  rw [Sparse.get_setRange, List.length_replicate]
  by_cases hb : b < n <;> simp [hb]

end

/-- Settles O60: each command writes zeros over its ranges, WIPE's being all of PM and BM. -/
theorem zeroingCommands : Obligations.ZeroingCommands := by
  intro s v hlatch
  obtain rfl := State.argv_of_latch hlatch
  refine ⟨fun rd vl hslots => ?_, fun hbytes => ?_, fun hpm hbm => ?_⟩
  · have hlegal : RangesLegal s.params s.argv (.pzero rd vl) := by
      simp [RangesLegal, SlotsInRange, BytesInRange, slotsOut, slotsIn, bytesOut, bytesIn, hslots]
    exact writesSlots_of_exec (checked_of_passes hlegal.passes) List.length_replicate fun k j => entry_replicate_zero
  · have hlegal : RangesLegal s.params s.argv .bzero := by
      simp [RangesLegal, SlotsInRange, BytesInRange, slotsOut, slotsIn, bytesOut, bytesIn, hbytes]
    exact writesBytes_of_exec (checked_of_passes hlegal.passes)
  · have hlegal : RangesLegal s.params s.argv .wipe := by
      simp [RangesLegal, SlotsInRange, BytesInRange, slotsOut, slotsIn, bytesOut, bytesIn]
    have hslot := Sparse.get_setRange_zero_replicate s.pm s.params.nslot (Poly.const 0)
    have hbyte := Sparse.get_setRange_zero_replicate s.bm s.params.bmSize 0
    refine ⟨_, checked_of_passes hlegal.passes, rfl, fun x hx => ⟨Poly.const 0, ?_, fun j => Poly.coeff_const_zero⟩,
      fun a ha => ?_, fun x hx => ?_, fun a ha => ?_, fun j hj => ⟨Poly.coeff_const_zero hj, Poly.coeff_const_zero hj⟩⟩
    · exact (hslot x).trans (if_pos hx)
    · exact (hbyte a).trans (if_pos ha)
    · exact ((hslot x).trans (if_neg (by omega))).trans (Sparse.get_eq_none_of_wfBelow hpm hx)
    · exact ((hbyte a).trans (if_neg (by omega))).trans (Sparse.get_eq_none_of_wfBelow hbm ha)

end Sys2Proof.Machine
